-- ==== Sys2Proof/Word.lean ====
section
/-! DEFINITION. The widths of the machine's values and their plainest arithmetic (spec/00_scope.md R5, R8, R9). -/

namespace Sys2Proof

/-- A Word is a 39-bit value, bit 38 the sign (R8). -/
abbrev Word := BitVec 39

/-- The 38-bit unsigned value of the auxiliary register (R9, R102). -/
abbrev Aux := BitVec 38

/-- A word address of the core store, 0 to 8191 (R5, R200). -/
abbrev Addr := BitVec 13

/-- A half-word address: `address * 2 + half` (R104). -/
abbrev HalfAddr := BitVec 14

/-- An operation code F: two octal digits (R301, R302). -/
abbrev Opcode := BitVec 6

/-- A half-instruction: F in bits 18:13, N in bits 12:0 (R301). -/
abbrev Half := BitVec 19

/-- What a reader or punch buffer holds one of (R110). -/
abbrev Byte := BitVec 8

/-- MAX of R8, the largest word. -/
def maxInt : Int := 274877906943

/-- MIN of R8, the most negative word. -/
def minInt : Int := -274877906944

/-- `u(v)` of R8: the 39-bit pattern of an integer, that is v mod 2^39. -/
def wordOfInt (v : Int) : Word := BitVec.ofInt 39 v

/-- `zext_39(AR)` of R9: the auxiliary value as a word, bit 38 zero. -/
def wordOfAux (r : Aux) : Word := r.setWidth 39

/-- `DL(A, AR) = s(A) * 2^38 + AR` of R9. -/
def doubleLength (a : Word) (r : Aux) : Int := a.toInt * ((2 ^ 38 : Nat) : Int) + (r.toNat : Int)

end Sys2Proof
end

