-- ==== Sys2Proof/Machine/Flags.lean ====
section
/-! DEFINITION. Every overflow computation the spec gives (spec/40_alu.md R402 to R409, R422, R423). There are no
other flags (R410). -/

namespace Sys2Proof.Machine

/-- Overflow of an exact integer result: it lies outside MIN to MAX (R404, R406, R407, R409). -/
def outsideWord (v : Int) : Bool := decide (¬ (minInt ≤ v ∧ v ≤ maxInt))

/-- The two's-complement overflow table of R404 for an addition: the signs of the two operands and of the result. -/
def overflowTable (signX signY signR : Bool) : Bool :=
  match signX, signY, signR with
  | false, false, r => r
  | true, true, r => !r
  | false, true, _ => false
  | true, false, _ => false

/-- Overflow of a negation: only of the most negative word (R402). -/
def negateOverflows (a : Word) : Bool := decide (a.toInt = minInt)

/-- Overflow of an increment: only of MAX (R403). -/
def incrementOverflows (n : Word) : Bool := decide (n.toInt = maxInt)

/-- The sign-change test of a left shift by k places: some bit shifted into the sign position differs from the sign
before it. `v.getMsbD j` is `s_j` of R422 and R423: bit j below the sign, and 0 past the low end. -/
def signChangesDuring {w : Nat} (v : BitVec w) (k : Nat) : Bool :=
  (List.range k).any fun j => v.getMsbD (j + 1) != v.getMsbD j

end Sys2Proof.Machine
end

