-- ==== Sys2Proof/Machine/Alu.lean ====
section
/-! DEFINITION. The integer ALU: pure functions the engine calls (spec/40_alu.md R400 to R424). -/

namespace Sys2Proof.Machine

/-- The eight base operations, in the order of their op number 0 to 7 (R400). -/
inductive AluOp where
  | noop
  | negate
  | increment
  | collate
  | add
  | subtract
  | clear
  | negateAdd
  deriving DecidableEq, Repr

/-- op 1, negate (R402). -/
def aluNegate (a : Word) : Word × Bool :=
  if negateOverflows a then (a, true) else (wordOfInt (-a.toInt), false)

/-- The word of an exact integer result, with the overflow indication of R404. -/
def narrow (v : Int) : Word × Bool := (wordOfInt v, outsideWord v)

/-- `apply(op, acc, a, n)`: the result and the overflow indication (R400 to R410). -/
def aluApply (op : AluOp) (acc a n : Word) : Word × Bool :=
  match op with
  | .noop => (a, false)
  | .negate => aluNegate a
  | .increment => (wordOfInt (n.toInt + 1), incrementOverflows n)
  | .collate => (acc &&& n, false)
  | .add => narrow (acc.toInt + n.toInt)
  | .subtract => narrow (acc.toInt - n.toInt)
  | .clear => (0, false)
  | .negateAdd => narrow (n.toInt - acc.toInt)

/-- The high 39 bits and the low 38 bits of a 77-bit pattern (R411, R422). -/
def splitDouble (p : BitVec 77) : Word × Aux := (p.extractLsb' 38 39, p.extractLsb' 0 38)

/-- `multiply(md, mr)`: the exact product as a 77-bit two's-complement number, split (R411). -/
def aluMultiply (md mr : Word) : Word × Aux := splitDouble (BitVec.ofInt 77 (md.toInt * mr.toInt))

/-- The quotient of |d| by |v| with its sign re-applied, so truncated toward zero (R413). -/
def signedQuotient (d v : Int) : Int :=
  let q : Int := (d.natAbs / v.natAbs : Nat)
  if decide (d < 0) != decide (v < 0) then -q else q

/-- `divide(high, low, divisor)` (R413 to R415). -/
def aluDivide (high : Word) (low : Aux) (divisor : Word) : Word × Bool :=
  if divisor.toInt = 0 then (high, true)
  else (wordOfInt (signedQuotient (doubleLength high low) divisor.toInt), false)

/-- `shr_dl(A, AR, k)`: double-length arithmetic right shift (R420). Integer division by a positive number floors. -/
def shiftRightDouble (a : Word) (r : Aux) (k : Nat) : Word × Aux :=
  let v := doubleLength a r / ((2 ^ k : Nat) : Int)
  (wordOfInt (v / ((2 ^ 38 : Nat) : Int)), BitVec.ofInt 38 v)

/-- `shr_l(A, k)`: single-length logical right shift (R421). -/
def shiftRightLogical (a : Word) (k : Nat) : Word := a >>> k

/-- The 77-bit pattern of A:AR (R422). -/
def doublePattern (a : Word) (r : Aux) : BitVec 77 := a ++ r

/-- `shl_dl(A, AR, k)`: double-length arithmetic left shift and its overflow (R422). -/
def shiftLeftDouble (a : Word) (r : Aux) (k : Nat) : Word × Aux × Bool :=
  let v := doublePattern a r
  let d := splitDouble (v <<< k)
  (d.1, d.2, signChangesDuring v k)

/-- `shl_s(A, k)`: single-length left shift and its overflow (R423). -/
def shiftLeftSingle (a : Word) (k : Nat) : Word × Bool := (a <<< k, signChangesDuring a k)

/-- `shl_fast(A, N)`: left shift by N mod 64, no overflow (R424). -/
def shiftLeftFast (a : Word) (n : Addr) : Word := a <<< (n.toNat % 64)

end Sys2Proof.Machine
end

