-- ==== Sys2Proof/Machine/FloatFormat.lean ====
section
/-! DEFINITION. The float format and the thresholds on a result's exponent (spec/47_fpu.md R800 to R805, R821): what any
floating-point unit of the machine shares. -/

namespace Sys2Proof.Machine

/-- M of R800: the mantissa, word bits 38:9, as a 30-bit two's-complement number. -/
def mantissa (w : Word) : Int := (w.extractLsb' 9 30).toInt

/-- E of R800: the exponent, word bits 8:0. -/
def exponent (w : Word) : Nat := (w.extractLsb' 0 9).toNat

/-- The float word of a mantissa and an exponent (R800). -/
def packFloat (m e : Int) : Word := BitVec.ofInt 30 m ++ BitVec.ofInt 9 e

/-- FMAX_POS of R804. -/
def fmaxPos : Word := packFloat 536870911 511

/-- FMAX_NEG of R804. -/
def fmaxNeg : Word := packFloat (-536870912) 511

/-- `sat(negative)` of R804. -/
def saturated (negative : Bool) : Word := if negative then fmaxNeg else fmaxPos

/-- The float is standardised: zero, or the top two mantissa bits differ (R802). -/
def standardised (w : Word) : Prop := w = 0 ∨ w.getLsbD 38 ≠ w.getLsbD 37

/-- A float result before its exponent's range is looked at: a 30-bit mantissa and an unbounded exponent. -/
structure FloatResult where
  mantissa : BitVec 30
  exponent : Int
  deriving DecidableEq, Repr

/-- The mantissa and the exponent of a word as a result: `finish` gives the word back with no flag. -/
def FloatResult.ofWord (w : Word) : FloatResult := ⟨w.extractLsb' 9 30, Machine.exponent w⟩

/-- The last lines of R805, which R821 asks of every floating-point unit: an exponent below 0 gives zero with no flag,
one of 512 or more the saturation word of the result's sign with overflow, any other the packed word. -/
def finish (r : FloatResult) : Word × Bool :=
  if r.exponent < 0 then (0, false)
  else if 512 ≤ r.exponent then (saturated r.mantissa.msb, true)
  else (r.mantissa ++ BitVec.ofInt 9 r.exponent, false)

end Sys2Proof.Machine
end

