-- ==== Sys2Proof/Config.lean ====
section
/-! DEFINITION. What an implementation fixes (spec/00_scope.md R6): the type of the named parameters with what the spec asks
of them, and the two parameters for which the spec gives no default, as opaque constants that nothing in Lean can evaluate.
The values of the parameters that have a default stand in Machine/Params.lean. -/

namespace Sys2Proof

open Sys2Proof.Machine

/-- The number of a reader or of a punch: unit 1, 2 or 3 (spec/10_state.md R106, R110). -/
inductive UnitNo where
  | one
  | two
  | three
  deriving DecidableEq, Repr, Inhabited

/-- `unit_both` of R6: the unit that N[12:11] = 11 selects in 71 and 74. OPEN in the spec (D23, I11): a free value.
Assumption log 7. -/
opaque Config.unitBoth : UnitNo

/-- `boot_wg` of R6: the word that `reset run` preloads into the word generator. OPEN in the spec (D29, I9): a free
value. Assumption log 8. -/
opaque Config.bootWg : Word

/-- The functions of a floating-point unit, each total in its operand words (spec/47_fpu.md R820): the result's mantissa
and unbounded exponent. The word and the overflow indication follow by `finish`, so the thresholds of R821 hold of
whatever functions stand here. `std` is the unit's standardisation of a stored float (R806), which no instruction
calls. -/
structure Config.FloatOps where
  add : Word → Word → FloatResult
  neg : Word → FloatResult
  mpy : Word → Word → FloatResult
  div : Word → Word → FloatResult
  fix : Word → FloatResult
  std : Word → FloatResult

/-- `fadd(a, b)` of a unit (R820). -/
def Config.FloatOps.fadd (f : Config.FloatOps) (a b : Word) : Word × Bool := finish (f.add a b)

/-- `fneg(a)` of a unit (R820). -/
def Config.FloatOps.fneg (f : Config.FloatOps) (a : Word) : Word × Bool := finish (f.neg a)

/-- `fmpy(a, b)` of a unit (R820). -/
def Config.FloatOps.fmpy (f : Config.FloatOps) (a b : Word) : Word × Bool := finish (f.mpy a b)

/-- `fdiv(a, b)` of a unit (R820). -/
def Config.FloatOps.fdiv (f : Config.FloatOps) (a b : Word) : Word × Bool := finish (f.div a b)

/-- `ffix(a)` of a unit (R820). -/
def Config.FloatOps.ffix (f : Config.FloatOps) (a : Word) : Word × Bool := finish (f.fix a)

/-- `fstd(w)` of a unit (R806, R821). -/
def Config.FloatOps.fstd (f : Config.FloatOps) (w : Word) : Word × Bool := finish (f.std w)

/-- The properties every floating-point unit must have, in the order of R821 (I6: the parameter `fpu` is 'constrained by
rule R821'); its two thresholds are in `finish`. Assumption log 13. -/
structure Config.FloatOps.Lawful (f : Config.FloatOps) : Prop where
  /-- fadd(x, 0) = x -/
  add_zero : ∀ x : Word, f.fadd x 0 = (x, false)
  /-- fadd(x, fneg(x)) = 0 for a standardised x whose negation neither underflows nor overflows -/
  add_neg : ∀ x : Word, standardised x → 0 ≤ (f.neg x).exponent → (f.neg x).exponent < 512 →
    f.fadd x (f.fneg x).1 = (0, false)
  /-- fadd(FMAX_POS, FMAX_POS) saturates and sets overflow -/
  add_max : f.fadd fmaxPos fmaxPos = (fmaxPos, true)
  /-- fdiv(x, 0) saturates with the dividend's sign and sets overflow -/
  div_zero : ∀ x : Word, f.fdiv x 0 = (saturated (decide (mantissa x < 0)), true)
  /-- fstd is idempotent -/
  std_idempotent : ∀ w : Word, (f.fstd (f.fstd w).1).1 = (f.fstd w).1
  /-- fmpy(x, 0) = fmpy(0, x) = 0 -/
  mpy_zero : ∀ x : Word, f.fmpy x 0 = (0, false) ∧ f.fmpy 0 x = (0, false)

/-- The floating-point unit as one configuration field: any functions that keep R821, and no others (R820). -/
structure Config.Fpu extends Config.FloatOps where
  lawful : toFloatOps.Lawful

/-- The eleven named parameters of R6, one field each, which the operations take as an argument. They are
configuration, not state: no instruction and no host operation changes them (R100). -/
structure Config.Params where
  /-- `ring_capacity`: usable slots of each reader and punch buffer (D34) -/
  ringCapacity : Nat
  /-- the capacity is more than 0 (R6) -/
  ringCapacity_pos : 0 < ringCapacity
  /-- `bootstrap[0..3]`: the four fixed words the fetch path returns at addresses 0 to 3 (D28) -/
  bootstrap : Vector Word 4
  /-- `boot_wg`: the word that `reset run` preloads into WG (D29) -/
  bootWg : Word
  /-- `initial_store`: the contents of the core store when the block is created (D31) -/
  initialStore : Addr → Word
  /-- `shift_count_mask`: the mask applied to N by 50, 51, 54 and 55 (D8) -/
  shiftCountMask : Addr
  /-- `unit_both`: the unit that N[12:11] = 11 selects in 71 and 74 (D23) -/
  unitBoth : UnitNo
  /-- `char_mask`: the mask of the byte moved by 71 and 74 (D24) -/
  charMask : Byte
  /-- `fmul_exp_delta`: the exponent correction of the float multiplication (D17) -/
  fmulExpDelta : Int
  /-- `fdiv_exp_delta`: the exponent adjustment of the float division (D18) -/
  fdivExpDelta : Int
  /-- `fix_float_exp`: the working exponent of the integer-to-float conversion (D21) -/
  fixFloatExp : Int
  /-- `fpu`: the floating-point unit, from the three exponent parameters in the order above (D14) -/
  fpu : Int → Int → Int → Config.Fpu

end Sys2Proof
end

