-- ==== Sys2Proof/Machine/Fpu.lean ====
section
/-! DEFINITION. The reference floating-point functions (spec/47_fpu.md R803 to R818). The two exponent corrections and the
exponent of the integer-to-float conversion are arguments (R814, R816, R818). Assumption log 13. -/

namespace Sys2Proof.Machine

/-- Bit i of the working cell's integer in two's complement (R805). -/
def cellBit (c : Int) (i : Nat) : Bool := decide (c / ((2 ^ i : Nat) : Int) % 2 = 1)

/-- The integer fits the 64-bit signed cell (R805). -/
def inCell (c : Int) : Bool := decide (-((2 ^ 63 : Nat) : Int) ≤ c ∧ c < ((2 ^ 63 : Nat) : Int))

/-- The first loop of R805: halve while the value is outside the cell, collecting the lost bits. `fuel` bounds the
number of passes. -/
def shrinkCell (fuel : Nat) (c e : Int) (sticky : Bool) : Int × Int × Bool :=
  match fuel with
  | 0 => (c, e, sticky)
  | fuel + 1 => if inCell c then (c, e, sticky) else shrinkCell fuel (c / 2) (e + 1) (sticky || cellBit c 0)

/-- The second loop of R805: double while the top two bits are equal. It ends within 63 passes for a value that is not
zero. -/
def normaliseCell (fuel : Nat) (c e : Int) : Int × Int :=
  match fuel with
  | 0 => (c, e)
  | fuel + 1 => if cellBit c 63 = cellBit c 62 then normaliseCell fuel (c * 2) (e - 1) else (c, e)

/-- `C | 2^34` (R805): the epsilon bit, the mantissa's least significant bit. -/
def setEpsilon (c : Int) : Int := if cellBit c 34 then c else c + ((2 ^ 34 : Nat) : Int)

/-- `Standardise(C, e)` up to its last lines, the thresholds (R805). -/
def standardiseResult (c e : Int) : FloatResult :=
  if c = 0 then ⟨0, 0⟩
  else
    let shrunk := shrinkCell (c.natAbs.log2 + 1) c e false
    let normal := normaliseCell 63 shrunk.1 shrunk.2.1
    let rounded :=
      if normal.1 % ((2 ^ 34 : Nat) : Int) ≠ 0 ∨ shrunk.2.2 = true then setEpsilon normal.1 else normal.1
    ⟨BitVec.ofInt 30 (rounded / ((2 ^ 34 : Nat) : Int)), normal.2⟩

/-- `Standardise(C, e)` (R805). -/
def standardise (c e : Int) : Word × Bool := finish (standardiseResult c e)

/-- A float's working cell, `C = M * 2^34` (R803). -/
def cellOf (w : Word) : Int := mantissa w * ((2 ^ 34 : Nat) : Int)

/-- The result of `fstd(w)` (R806). -/
def stdResult (w : Word) : FloatResult := standardiseResult (cellOf w) (exponent w)

/-- A working cell aligned by k places, the sign extended (R810). -/
def alignCell (c : Int) (k : Nat) : Int := c / ((2 ^ k : Nat) : Int)

/-- The result of `fadd(a, b)`; with a zero operand the other word as it is (R810). -/
def addResult (a b : Word) : FloatResult :=
  if a = 0 then .ofWord b
  else if b = 0 then .ofWord a
  else if exponent b ≤ exponent a then
    standardiseResult (cellOf a + alignCell (cellOf b) (exponent a - exponent b)) (exponent a)
  else standardiseResult (alignCell (cellOf a) (exponent b - exponent a) + cellOf b) (exponent b)

/-- The result of `fneg(a)` (R812). -/
def negResult (a : Word) : FloatResult :=
  if a = 0 then ⟨0, 0⟩ else standardiseResult (-cellOf a) (exponent a)

/-- The result of `fmpy(a, b)` with the exponent correction `delta` (R814). -/
def mpyResult (delta : Int) (a b : Word) : FloatResult :=
  if a = 0 ∨ b = 0 then ⟨0, 0⟩
  else standardiseResult (mantissa a * mantissa b * 16) ((exponent a : Int) + exponent b - 256 + 1 + delta)

/-- The result of `fdiv(a, b)` with the exponent adjustment `delta` (R816). The quotient is truncated toward zero. A
divisor mantissa 0 gives the dividend's mantissa with the exponent 512, which `finish` saturates with its sign. -/
def divResult (delta : Int) (a b : Word) : FloatResult :=
  if mantissa b = 0 then ⟨a.extractLsb' 9 30, 512⟩
  else if mantissa a = 0 then ⟨0, 0⟩
  else
    standardiseResult (Int.tdiv (mantissa a * ((2 ^ 33 : Nat) : Int)) (mantissa b))
      ((exponent a : Int) - exponent b + 256 + 30 + delta)

/-- The result of `ffix(A)` with the working exponent `fixExp` (R818). -/
def fixResult (fixExp : Int) (a : Word) : FloatResult := standardiseResult (a.toInt * ((2 ^ 25 : Nat) : Int)) fixExp

/-- The reference functions with their three parameters (R820). -/
def referenceOps (fmulExpDelta fdivExpDelta fixFloatExp : Int) : Config.FloatOps where
  add := addResult
  neg := negResult
  mpy := mpyResult fmulExpDelta
  div := divResult fdivExpDelta
  fix := fixResult fixFloatExp
  std := stdResult

/-- `fstd(w)` (R806). No instruction calls it. -/
def fstd (w : Word) : Word × Bool := finish (stdResult w)

/-- `fadd(a, b)` (R810). -/
def fadd (a b : Word) : Word × Bool := finish (addResult a b)

/-- `fneg(a)` (R812). -/
def fneg (a : Word) : Word × Bool := finish (negResult a)

/-- `fmpy(a, b)` with the exponent correction `delta` (R814). -/
def fmpy (delta : Int) (a b : Word) : Word × Bool := finish (mpyResult delta a b)

/-- `fdiv(a, b)` with the exponent adjustment `delta` (R816). -/
def fdiv (delta : Int) (a b : Word) : Word × Bool := finish (divResult delta a b)

/-- `ffix(A)` with the working exponent `fixExp` (R818). -/
def ffix (fixExp : Int) (a : Word) : Word × Bool := finish (fixResult fixExp a)

/-- Subtraction is negation then addition, its overflow the OR of both (spec/48_group6_float.md R850). -/
def fsub (fpu : Config.Fpu) (x y : Word) : Word × Bool :=
  let ny := fpu.fneg y
  let r := fpu.fadd x ny.1
  (r.1, ny.2 || r.2)

end Sys2Proof.Machine
end

