-- ==== Sys2Proof/Machine/FpuLawful.lean ====
section
/-! DEFINITION. The reference floating-point unit (spec/47_fpu.md R820), with the proofs its place in a configuration
asks for: the reference functions have the properties of R821 whatever the three parameters are. -/

namespace Sys2Proof.Machine

/-! ## Words and their fields -/

theorem extract_append_mantissa (m : BitVec 30) (x : BitVec 9) : (m ++ x).extractLsb' 9 30 = m :=
  BitVec.extractLsb'_append_eq_left

theorem extract_append_exponent (m : BitVec 30) (x : BitVec 9) : (m ++ x).extractLsb' 0 9 = x :=
  BitVec.extractLsb'_append_eq_right

/-- A word is its two fields. -/
theorem append_fields (w : Word) : w.extractLsb' 9 30 ++ w.extractLsb' 0 9 = w := by
  apply BitVec.eq_of_toNat_eq
  have := w.isLt
  rw [BitVec.toNat_append, ← Nat.shiftLeft_add_eq_or_of_lt (BitVec.isLt _)]
  simp only [BitVec.extractLsb'_toNat, Nat.shiftRight_eq_div_pow, Nat.shiftLeft_eq]
  omega

theorem exponent_lt (w : Word) : exponent w < 512 := (w.extractLsb' 0 9).isLt

theorem mantissa_bounds (w : Word) : -536870912 ≤ mantissa w ∧ mantissa w < 536870912 := by
  have h1 := BitVec.le_toInt (w.extractLsb' 9 30)
  have h2 := BitVec.toInt_lt (x := w.extractLsb' 9 30)
  unfold mantissa
  omega

theorem mantissa_zero : mantissa 0 = 0 := by decide

/-- Everything the thresholds can do (R805, R821). -/
theorem finish_cases (r : FloatResult) :
    (r.exponent < 0 ∧ finish r = (0, false)) ∨
    (512 ≤ r.exponent ∧ finish r = (saturated r.mantissa.msb, true)) ∨
    (0 ≤ r.exponent ∧ r.exponent < 512 ∧ finish r = (r.mantissa ++ BitVec.ofInt 9 r.exponent, false)) := by
  unfold finish
  by_cases h1 : r.exponent < 0
  · exact .inl ⟨h1, if_pos h1⟩
  · by_cases h2 : 512 ≤ r.exponent
    · exact .inr (.inl ⟨h2, by rw [if_neg h1, if_pos h2]⟩)
    · exact .inr (.inr ⟨by omega, by omega, by rw [if_neg h1, if_neg h2]⟩)

/-- A word's own fields give the word back. -/
theorem finish_ofWord (w : Word) : finish (.ofWord w) = (w, false) := by
  have h := exponent_lt w
  unfold finish FloatResult.ofWord
  rw [if_neg (by simp), if_neg (by simp only []; omega)]
  have he : BitVec.ofInt 9 (exponent w : Int) = w.extractLsb' 0 9 := by
    unfold exponent
    rw [BitVec.ofInt_natCast, BitVec.ofNat_toNat, BitVec.setWidth_eq]
  simp only [he, append_fields]

theorem finish_zero : finish ⟨0, 0⟩ = (0, false) := by decide

/-- The fields of the word that a result in range packs into. -/
theorem fields_of_finish (m : Int) (e : Int) (hm : -536870912 ≤ m) (hm' : m < 536870912) (he : 0 ≤ e) (he' : e < 512) :
    mantissa (finish ⟨BitVec.ofInt 30 m, e⟩).1 = m ∧ ((exponent (finish ⟨BitVec.ofInt 30 m, e⟩).1 : Nat) : Int) = e := by
  have h : finish ⟨BitVec.ofInt 30 m, e⟩ = (BitVec.ofInt 30 m ++ BitVec.ofInt 9 e, false) := by
    unfold finish
    rw [if_neg (by simp only []; omega), if_neg (by simp only []; omega)]
  rw [h]
  constructor
  · unfold mantissa
    rw [extract_append_mantissa, BitVec.toInt_ofInt, Int.bmod_eq_of_le (by omega) (by omega)]
  · unfold exponent
    rw [extract_append_exponent, BitVec.toNat_ofInt]
    omega

/-! ## The working cell -/

theorem inCell_iff (c : Int) : inCell c = true ↔ -9223372036854775808 ≤ c ∧ c < 9223372036854775808 := by
  simp [inCell]

/-- The top two bits of a cell value are equal exactly in the middle half of the cell. -/
theorem topBits_equal_iff (c : Int) (h : inCell c = true) :
    cellBit c 63 = cellBit c 62 ↔ -4611686018427387904 ≤ c ∧ c < 4611686018427387904 := by
  rw [inCell_iff] at h
  simp only [cellBit, decide_eq_decide]
  norm_num
  omega

/-- A value in the cell is not halved. -/
theorem shrinkCell_inCell (fuel : Nat) (c e : Int) (sticky : Bool) (h : inCell c = true) :
    shrinkCell fuel c e sticky = (c, e, sticky) := by
  cases fuel with
  | zero => rfl
  | succ n => rw [shrinkCell, if_pos h]

/-- A value whose top bits differ is not doubled. -/
theorem normaliseCell_stop (fuel : Nat) (c e : Int) (h : cellBit c 63 ≠ cellBit c 62) :
    normaliseCell fuel c e = (c, e) := by
  cases fuel with
  | zero => rfl
  | succ n => rw [normaliseCell, if_neg h]

/-- Doubling a value in the cell that is large enough for the passes left ends with top bits that differ. -/
theorem normaliseCell_ends (fuel : Nat) (c e : Int) (hc : inCell c = true)
    (hbig : 4611686018427387904 < c.natAbs * 2 ^ fuel) :
    ∃ k : Nat, normaliseCell fuel c e = (c * ((2 ^ k : Nat) : Int), e - (k : Int)) ∧
      inCell (c * ((2 ^ k : Nat) : Int)) = true ∧
      cellBit (c * ((2 ^ k : Nat) : Int)) 63 ≠ cellBit (c * ((2 ^ k : Nat) : Int)) 62 := by
  induction fuel generalizing c e with
  | zero =>
    have hd : cellBit c 63 ≠ cellBit c 62 := by
      rw [ne_eq, topBits_equal_iff c hc]
      omega
    exact ⟨0, by simp [normaliseCell], by simpa using hc, by simpa using hd⟩
  | succ n ih =>
    by_cases hd : cellBit c 63 = cellBit c 62
    · have hr := (topBits_equal_iff c hc).1 hd
      have hc2 : inCell (c * 2) = true := by rw [inCell_iff]; omega
      have hbig2 : 4611686018427387904 < (c * 2).natAbs * 2 ^ n := by
        rw [Int.natAbs_mul]
        calc 4611686018427387904 < c.natAbs * 2 ^ (n + 1) := hbig
          _ = c.natAbs * Int.natAbs 2 * 2 ^ n := by rw [pow_succ, show Int.natAbs 2 = 2 from rfl]; ring
      obtain ⟨k, h1, h2, h3⟩ := ih (c * 2) (e - 1) hc2 hbig2
      have hk : c * 2 * ((2 ^ k : Nat) : Int) = c * ((2 ^ (k + 1) : Nat) : Int) := by push_cast; ring
      rw [hk] at h1 h2 h3
      refine ⟨k + 1, ?_, h2, h3⟩
      rw [normaliseCell, if_pos hd, h1]
      congr 1
      push_cast
      ring
    · exact ⟨0, by rw [normaliseCell, if_neg hd]; simp, by simpa using hc, by simpa using hd⟩

/-- A standardised value whose scratch bits are 0 is its own result. -/
theorem standardiseResult_fixed (m e : Int) (hc : inCell (m * 17179869184) = true)
    (hd : cellBit (m * 17179869184) 63 ≠ cellBit (m * 17179869184) 62) :
    standardiseResult (m * 17179869184) e = ⟨BitVec.ofInt 30 m, e⟩ := by
  have h0 : m * 17179869184 ≠ 0 := fun h => hd (by rw [h]; rfl)
  unfold standardiseResult
  rw [if_neg h0]
  simp only [shrinkCell_inCell _ _ _ _ hc, normaliseCell_stop _ _ _ hd]
  norm_num

theorem standardiseResult_zero (e : Int) : standardiseResult 0 e = ⟨0, 0⟩ := if_pos rfl

theorem cellOf_eq (w : Word) : cellOf w = mantissa w * 17179869184 := by simp [cellOf]

/-! ## Standardisation -/

/-- The standardisation of a stored float that is not zero: the mantissa doubled until its top bits differ. -/
theorem stdResult_cases (w : Word) :
    (mantissa w = 0 ∧ stdResult w = ⟨0, 0⟩) ∨
    (∃ k : Nat, stdResult w = ⟨BitVec.ofInt 30 (mantissa w * ((2 ^ k : Nat) : Int)), (exponent w : Int) - (k : Int)⟩ ∧
      inCell (mantissa w * ((2 ^ k : Nat) : Int) * 17179869184) = true ∧
      cellBit (mantissa w * ((2 ^ k : Nat) : Int) * 17179869184) 63 ≠
        cellBit (mantissa w * ((2 ^ k : Nat) : Int) * 17179869184) 62) := by
  have hm := mantissa_bounds w
  by_cases h0 : mantissa w = 0
  · exact .inl ⟨h0, by unfold stdResult; rw [cellOf_eq, h0]; exact standardiseResult_zero _⟩
  · right
    have hc : inCell (mantissa w * 17179869184) = true := by rw [inCell_iff]; omega
    have hbig : 4611686018427387904 < (mantissa w * 17179869184).natAbs * 2 ^ 63 := by omega
    obtain ⟨k, h1, h2, h3⟩ := normaliseCell_ends 63 _ (exponent w) hc hbig
    have hk : mantissa w * 17179869184 * ((2 ^ k : Nat) : Int) = mantissa w * ((2 ^ k : Nat) : Int) * 17179869184 := by
      ring
    rw [hk] at h1 h2 h3
    refine ⟨k, ?_, h2, h3⟩
    unfold stdResult standardiseResult
    rw [cellOf_eq, if_neg (by omega)]
    simp only [shrinkCell_inCell _ _ _ _ hc, h1]
    norm_num

/-- A mantissa in the cell fits 30 bits. -/
theorem mantissa_of_inCell (m : Int) (h : inCell (m * 17179869184) = true) : -536870912 ≤ m ∧ m < 536870912 := by
  rw [inCell_iff] at h
  omega

/-- Standardising a stored float twice gives the word of the first time. -/
theorem stdResult_idempotent (w : Word) : (finish (stdResult (finish (stdResult w)).1)).1 = (finish (stdResult w)).1 := by
  have hz : (finish (stdResult 0)).1 = 0 := by decide
  rcases stdResult_cases w with ⟨_, h⟩ | ⟨k, h, hc, hd⟩
  · rw [h, finish_zero]; exact hz
  · rcases finish_cases (stdResult w) with ⟨_, hf⟩ | ⟨he, _⟩ | ⟨he, he', _⟩
    · rw [hf]; exact hz
    · rw [h] at he
      have := exponent_lt w
      simp only [] at he
      omega
    · rw [h] at he he' ⊢
      have hm := mantissa_of_inCell _ hc
      obtain ⟨f1, f2⟩ := fields_of_finish _ _ hm.1 hm.2 he he'
      have hv : stdResult (finish ⟨BitVec.ofInt 30 (mantissa w * ((2 ^ k : Nat) : Int)), (exponent w : Int) - (k : Int)⟩).1
          = ⟨BitVec.ofInt 30 (mantissa w * ((2 ^ k : Nat) : Int)), (exponent w : Int) - (k : Int)⟩ := by
        unfold stdResult
        rw [cellOf_eq, f1, f2]
        exact standardiseResult_fixed _ _ hc hd
      rw [hv]

/-! ## Negation -/

/-- The three shapes of a standardised mantissa that is not zero. -/
theorem standardised_bounds (w : Word) (h : standardised w) (h0 : w ≠ 0) :
    (268435456 ≤ mantissa w ∧ mantissa w < 536870912) ∨ (-536870912 ≤ mantissa w ∧ mantissa w < -268435456) := by
  have hd := h.resolve_left h0
  have hb := mantissa_bounds w
  have e38 : w.getLsbD 38 = decide (w.toNat / 2 ^ 38 % 2 = 1) := by
    simp [BitVec.getLsbD, Nat.testBit_eq_decide_div_mod_eq]
  have e37 : w.getLsbD 37 = decide (w.toNat / 2 ^ 37 % 2 = 1) := by
    simp [BitVec.getLsbD, Nat.testBit_eq_decide_div_mod_eq]
  rw [e38, e37, ne_eq, decide_eq_decide] at hd
  have hm : mantissa w = if 2 * (w.toNat / 512 % 1073741824) < 1073741824 then ((w.toNat / 512 % 1073741824 : Nat) : Int)
      else ((w.toNat / 512 % 1073741824 : Nat) : Int) - 1073741824 := by
    unfold mantissa
    rw [BitVec.toInt_eq_toNat_cond]
    simp [Nat.shiftRight_eq_div_pow]
  have := w.isLt
  norm_num at hd
  split at hm <;> omega

/-- The negation of a standardised float: exact, with the exponent one less for a mantissa 2^28 and one more for
-2^29. -/
theorem negResult_standardised (w : Word) (h : standardised w) (h0 : w ≠ 0) :
    (mantissa w = 268435456 ∧ negResult w = ⟨BitVec.ofInt 30 (-536870912), (exponent w : Int) - 1⟩) ∨
    (mantissa w = -536870912 ∧ negResult w = ⟨BitVec.ofInt 30 268435456, (exponent w : Int) + 1⟩) ∨
    (-536870912 < mantissa w ∧ negResult w = ⟨BitVec.ofInt 30 (-mantissa w), (exponent w : Int)⟩) := by
  unfold negResult
  rw [if_neg h0, cellOf_eq]
  have hb := standardised_bounds w h h0
  by_cases h1 : mantissa w = 268435456
  · refine .inl ⟨h1, ?_⟩
    rw [h1]
    have hn : ∀ e : Int, normaliseCell 63 (-(268435456 * 17179869184)) e = (-9223372036854775808, e - 1) := by
      intro e
      rw [normaliseCell, if_pos (by decide), normaliseCell_stop _ _ _ (by decide)]
      rfl
    unfold standardiseResult
    rw [if_neg (by decide)]
    simp only [shrinkCell_inCell _ (-(268435456 * 17179869184)) _ _ (by decide), hn]
    norm_num
  · by_cases h2 : mantissa w = -536870912
    · refine .inr (.inl ⟨h2, ?_⟩)
      rw [h2]
      have hs : ∀ e : Int, shrinkCell ((-(-536870912 * 17179869184) : Int).natAbs.log2 + 1) (-(-536870912 * 17179869184)) e false
          = (4611686018427387904, e + 1, false) := by
        intro e
        rw [shrinkCell, if_neg (by decide), shrinkCell_inCell _ _ _ _ (by decide)]
        rfl
      unfold standardiseResult
      rw [if_neg (by decide)]
      simp only [hs, normaliseCell_stop _ 4611686018427387904 _ (by decide)]
      norm_num
    · refine .inr (.inr ⟨by omega, ?_⟩)
      rw [← neg_mul]
      have hc : inCell (-mantissa w * 17179869184) = true := by rw [inCell_iff]; omega
      refine standardiseResult_fixed _ _ hc ?_
      rw [ne_eq, topBits_equal_iff _ hc]
      omega

/-- The word of a result in range, as an operand of an addition to a float that is not zero. -/
theorem addResult_eq (a b : Word) (ha : a ≠ 0) (hb : b ≠ 0) :
    addResult a b =
      if exponent b ≤ exponent a then
        standardiseResult (cellOf a + alignCell (cellOf b) (exponent a - exponent b)) (exponent a)
      else standardiseResult (alignCell (cellOf a) (exponent b - exponent a) + cellOf b) (exponent b) := by
  unfold addResult
  rw [if_neg ha, if_neg hb]

/-- A standardised float and its negation add to zero, unless the negation underflows or overflows. -/
theorem addResult_neg (w : Word) (h : standardised w) (he : 0 ≤ (negResult w).exponent)
    (he' : (negResult w).exponent < 512) : finish (addResult w (finish (negResult w)).1) = (0, false) := by
  by_cases h0 : w = 0
  · subst h0; decide
  · have key : ∀ (m e : Int), negResult w = ⟨BitVec.ofInt 30 m, e⟩ → -536870912 ≤ m → m < 536870912 → m ≠ 0 →
        (e = (exponent w : Int) ∧ m = -mantissa w ∨ e = (exponent w : Int) - 1 ∧ m = 2 * -mantissa w ∨
          e = (exponent w : Int) + 1 ∧ 2 * m = -mantissa w) →
        finish (addResult w (finish (negResult w)).1) = (0, false) := by
      intro m e hn hm hm' hm0 hcase
      rw [hn] at he he' ⊢
      obtain ⟨f1, f2⟩ := fields_of_finish m e hm hm' he he'
      generalize (finish ⟨BitVec.ofInt 30 m, e⟩).1 = v at f1 f2 ⊢
      have hv : v ≠ 0 := fun hz => hm0 (by rw [← f1, hz]; exact mantissa_zero)
      rw [addResult_eq w v h0 hv]
      suffices hz : ∀ x : Int, standardiseResult 0 x = ⟨0, 0⟩ by
        simp only [cellOf_eq, f1]
        rcases hcase with ⟨h1, h2⟩ | ⟨h1, h2⟩ | ⟨h1, h2⟩
        · rw [if_pos (by omega), show exponent w - exponent v = 0 by omega]
          rw [show mantissa w * 17179869184 + alignCell (m * 17179869184) 0 = 0 by unfold alignCell; norm_num; omega]
          rw [hz]; decide
        · rw [if_pos (by omega), show exponent w - exponent v = 1 by omega]
          rw [show mantissa w * 17179869184 + alignCell (m * 17179869184) 1 = 0 by unfold alignCell; norm_num; omega]
          rw [hz]; decide
        · rw [if_neg (by omega), show exponent v - exponent w = 1 by omega]
          rw [show alignCell (mantissa w * 17179869184) 1 + m * 17179869184 = 0 by unfold alignCell; norm_num; omega]
          rw [hz]; decide
      exact standardiseResult_zero
    have hb := standardised_bounds w h h0
    rcases negResult_standardised w h h0 with ⟨h1, hn⟩ | ⟨h1, hn⟩ | ⟨h1, hn⟩
    · exact key _ _ hn (by omega) (by omega) (by omega) (.inr (.inl ⟨rfl, by omega⟩))
    · exact key _ _ hn (by omega) (by omega) (by omega) (.inr (.inr ⟨rfl, by omega⟩))
    · exact key _ _ hn (by omega) (by omega) (by omega) (.inl ⟨rfl, rfl⟩)

/-! ## The reference unit -/

/-- The sign of a mantissa field is the sign of its number. -/
theorem mantissa_msb (w : Word) : (w.extractLsb' 9 30).msb = decide (mantissa w < 0) := BitVec.msb_eq_toInt

/-- The reference functions keep R821 for every value of the three parameters. -/
theorem referenceOps_lawful (fmulExpDelta fdivExpDelta fixFloatExp : Int) :
    (referenceOps fmulExpDelta fdivExpDelta fixFloatExp).Lawful where
  add_zero x := by
    by_cases hx : x = 0
    · subst hx; show fadd 0 0 = _; decide
    · show finish (addResult x 0) = _
      unfold addResult
      rw [if_neg hx, if_pos rfl, finish_ofWord]
  add_neg x h he he' := addResult_neg x h he he'
  add_max := by show fadd fmaxPos fmaxPos = _; decide
  div_zero x := by
    show finish (divResult fdivExpDelta x 0) = _
    unfold divResult
    rw [if_pos mantissa_zero]
    show (saturated (x.extractLsb' 9 30).msb, true) = _
    rw [mantissa_msb]
  std_idempotent w := stdResult_idempotent w
  mpy_zero x := by
    constructor
    · show finish (mpyResult fmulExpDelta x 0) = _
      unfold mpyResult
      rw [if_pos (.inr rfl), finish_zero]
    · show finish (mpyResult fmulExpDelta 0 x) = _
      unfold mpyResult
      rw [if_pos (.inl rfl), finish_zero]

/-- The reference floating-point unit with its three parameters (R820). -/
def referenceFpu (fmulExpDelta fdivExpDelta fixFloatExp : Int) : Config.Fpu where
  toFloatOps := referenceOps fmulExpDelta fdivExpDelta fixFloatExp
  lawful := referenceOps_lawful fmulExpDelta fdivExpDelta fixFloatExp

end Sys2Proof.Machine
end

