-- ==== Sys2Proof/Machine/Params.lean ====
section
/-! DEFINITION. The values of the named parameters (spec/00_scope.md R6): the spec's defaults, each marked DESIGN CHOICE
in the assumption log because the source leaves the point to the implementation; `unit_both` and `boot_wg` have no
default and stay opaque, `initial_store` has none either and is a choice of the model's. -/

namespace Sys2Proof.Machine

/-- `bootstrap[0..3]`: the suggested default, `26 4 : 06 0`, `22 4 / 16 3`, `55 5 : 71 0`, `43 1 : 40 2`
(spec/70_reset_and_hazards.md R1110). Assumption log 4. -/
def bootstrapDefault : Vector Word 4 := #v[188982804480, 154623655939, 386552766464, 300649021442]

/-- `fmul_exp_delta`, default 0 (R6, D17). Assumption log 5. -/
def fmulExpDelta : Int := 0

/-- `fdiv_exp_delta`, default 0 (R6, D18). Assumption log 6. -/
def fdivExpDelta : Int := 0

/-- `fix_float_exp`, default 294 (R6, D21). Assumption log 9. -/
def fixFloatExp : Int := 294

/-- `shift_count_mask`, default 8191 (R6, D8). Assumption log 10. -/
def shiftCountMask : Addr := 8191

/-- `char_mask`, default 0xFF (R6, D24). Assumption log 11. -/
def charMask : Byte := 0xFF

/-- `ring_capacity`, default 1023 (R6, D34). Assumption log 12. -/
def ringCapacity : Nat := 1023

/-- `initial_store`: OPEN, no default (D31). The machine the host's interface asks for is created with all words 0, the
start state of the spec's own programs (spec/95_test_vectors.md L3). DESIGN CHOICE, assumption log 2. -/
def initialStore : Addr → Word := fun _ => 0

/-- The configuration of the machine behind the host's interface (R6, R100): every operation takes its configuration as
an argument, and only `exec` and `step`, whose types the host fixes, are closed over this one (assumption log 25). -/
def params : Config.Params where
  ringCapacity := ringCapacity
  ringCapacity_pos := by decide
  bootstrap := bootstrapDefault
  bootWg := Config.bootWg
  initialStore := initialStore
  shiftCountMask := shiftCountMask
  unitBoth := Config.unitBoth
  charMask := charMask
  fmulExpDelta := fmulExpDelta
  fdivExpDelta := fdivExpDelta
  fixFloatExp := fixFloatExp
  fpu := referenceFpu

/-- The floating-point unit of a configuration (spec/47_fpu.md R820). -/
def floatUnit (p : Config.Params) : Config.Fpu := p.fpu p.fmulExpDelta p.fdivExpDelta p.fixFloatExp

end Sys2Proof.Machine
end

