-- ==== Sys2Proof/Machine/State.lean ====
section
/-! DEFINITION. The state of the block as plain data (spec/10_state.md R100 to R114), its named updates, the reasons a
step could stop, and the state after reset. -/

namespace Sys2Proof.Machine

/-- The execution mode (R105). -/
inductive Mode where
  | stop
  | run
  deriving DecidableEq, Repr

/-- One of the six physical units (R106). -/
inductive Device where
  | reader (u : UnitNo)
  | punch (u : UnitNo)
  deriving DecidableEq, Repr

/-- Three byte queues, one per unit, the oldest byte first (R110). -/
structure Buffers where
  unit1 : List Byte
  unit2 : List Byte
  unit3 : List Byte
  deriving DecidableEq, Repr

/-- The queue of one unit. -/
def Buffers.get (b : Buffers) (u : UnitNo) : List Byte :=
  match u with
  | .one => b.unit1
  | .two => b.unit2
  | .three => b.unit3

/-- The same queues with the queue of one unit replaced. -/
def Buffers.set (b : Buffers) (u : UnitNo) (q : List Byte) : Buffers :=
  match u with
  | .one => { b with unit1 := q }
  | .two => { b with unit2 := q }
  | .three => { b with unit3 := q }

/-- Why the engine halted (spec/60_exceptions.md R1005: a halt has two causes). -/
inductive HaltReason where
  | selfJump
  | unimplemented (opcode : Opcode)
  deriving DecidableEq, Repr

/-- What the block puts out or records. Model's own (assumption log 3). -/
inductive TraceEntry where
  /-- `halt(reason)` records the reason (spec/00_scope.md R10); for an unimplemented opcode this is the diagnostic event
  of R1006. -/
  | halted (reason : HaltReason)
  /-- A punched byte drained by the host, the event `p<unit> <hex-byte>` (R1051). -/
  | punched (u : UnitNo) (b : Byte)
  /-- The notice `r<unit> busy` (R1052). -/
  | readerBusy (u : UnitNo)
  deriving DecidableEq, Repr

/-- The core store: (address, word) pairs, addresses strictly rising, no entry equal to what an unlisted address reads
as (R109, spec/20_memory.md R200). The form and the operations stand in Machine/Ops.lean. Assumption log 1. -/
abbrev Memory := List (Nat × Word)

/-- The block's state: the ten items of R100, and the model's own `trace`. -/
structure State where
  /-- A, the accumulator (R101) -/
  acc : Word
  /-- AR, the auxiliary register (R102) -/
  aux : Aux
  /-- OVR, the sticky overflow flag (R103) -/
  ovr : Bool
  /-- pc, the half-word address of the current instruction (R104) -/
  pc : HalfAddr
  /-- Stop or Run (R105) -/
  mode : Mode
  /-- None, or the unit the engine waits on (R106) -/
  busy : Option Device
  /-- WG, the word generator (R107) -/
  wg : Word
  /-- the poll counter (R108) -/
  poll : Nat
  /-- the core store (R109) -/
  store : Memory
  /-- the reader buffers R1 to R3 (R110) -/
  readers : Buffers
  /-- the punch buffers P1 to P3 (R110) -/
  punches : Buffers
  /-- MODEL's own: what the block has put out or recorded, oldest first; nothing reads it (assumption log 3) -/
  trace : List TraceEntry
  deriving DecidableEq, Repr

/-- The reasons a step could fault: NONE. The block has no exceptions, traps or faults (spec/60_exceptions.md R1000,
R1001): every condition is a next state. Safe: no meaning raises one. -/
inductive Fault where
  deriving DecidableEq, Repr

/-- The reasons a step could be refused. -/
inductive Refusal where
  /-- Raised by an arm of `exec` for an instruction that has no meaning yet: no arm does. Safe: it only stops. -/
  | notModelled (mnemonic : String)
  deriving DecidableEq, Repr

/-- `A <- v` -/
def State.setAcc (s : State) (v : Word) : State := { s with acc := v }

/-- `AR <- v` -/
def State.setAux (s : State) (v : Aux) : State := { s with aux := v }

/-- `OVR <- v` -/
def State.setOvr (s : State) (v : Bool) : State := { s with ovr := v }

/-- `pc <- v` -/
def State.setPc (s : State) (v : HalfAddr) : State := { s with pc := v }

/-- `mode <- v` -/
def State.setMode (s : State) (v : Mode) : State := { s with mode := v }

/-- `busy <- v` -/
def State.setBusy (s : State) (v : Option Device) : State := { s with busy := v }

/-- `WG <- v` -/
def State.setWg (s : State) (v : Word) : State := { s with wg := v }

/-- `poll <- v` -/
def State.setPoll (s : State) (v : Nat) : State := { s with poll := v }

/-- The store replaced. -/
def State.setStore (s : State) (v : Memory) : State := { s with store := v }

/-- The reader buffers replaced. -/
def State.setReaders (s : State) (v : Buffers) : State := { s with readers := v }

/-- The punch buffers replaced. -/
def State.setPunches (s : State) (v : Buffers) : State := { s with punches := v }

/-- One more entry at the end of the trace. -/
def State.emit (s : State) (e : TraceEntry) : State := { s with trace := s.trace ++ [e] }

/-- The machine right after reset: the state at creation (R113, spec/70_reset_and_hazards.md R1102) and then the reset
of R1100, which changes nothing more: A, AR, OVR, pc, busy, WG and poll zero or None, mode Stop, the buffers empty.
The store lists nothing: the contents at creation are the parameter `initial_store`, here all words 0
(DESIGN CHOICE, assumption log 2). -/
def State.reset : State where
  acc := 0
  aux := 0
  ovr := false
  pc := 0
  mode := .stop
  busy := none
  wg := 0
  poll := 0
  store := []
  readers := ⟨[], [], []⟩
  punches := ⟨[], [], []⟩
  trace := []

end Sys2Proof.Machine
end

