-- ==== Sys2Proof/Machine/Ops.lean ====
section
/-! DEFINITION. The named operations over the core store and the registers: the two read paths and the write
(spec/20_memory.md R200 to R205), the bounded byte queues (spec/10_state.md R110), advancing the program counter, the
sticky flag, and the two ways an instruction stops the engine, `halt` and `hold` (spec/00_scope.md R10). The block has
no exception entry and no return from one (spec/60_exceptions.md R1000): a halt or a hold saves nothing and jumps
nowhere. -/

namespace Sys2Proof.Machine

/-- What a store address that is not listed holds. It is part of the representation: a store with any contents is a list
(`storeOf` in Machine/Creation.lean; assumption log 1). -/
def unlistedWord : Word := 0

/-- The number of words of the core store (R200). -/
def storeSize : Nat := 8192

/-- The word the store holds at an address, before any overlay. -/
def Memory.read (m : Memory) (a : Nat) : Word :=
  match m with
  | [] => unlistedWord
  | (b, w) :: rest => if a = b then w else Memory.read rest a

/-- An entry put in front of the rest, unless its word is what an unlisted address holds. -/
def Memory.consWord (a : Nat) (v : Word) (rest : Memory) : Memory :=
  if v = unlistedWord then rest else (a, v) :: rest

/-- The store after one word is written; the canonical form is kept. -/
def Memory.write (m : Memory) (a : Nat) (v : Word) : Memory :=
  match m with
  | [] => Memory.consWord a v []
  | (b, w) :: rest =>
    if a < b then Memory.consWord a v ((b, w) :: rest)
    else if a = b then Memory.consWord a v rest
    else (b, w) :: Memory.write rest a v

/-- The canonical form from address `lo` on: addresses at least `lo`, strictly rising, inside the store, and no entry
equal to what an unlisted address holds. -/
def Memory.wfFrom (m : Memory) (lo : Nat) : Bool :=
  match m with
  | [] => true
  | (a, w) :: rest => decide (lo ≤ a) && decide (a < storeSize) && decide (w ≠ unlistedWord) && Memory.wfFrom rest (a + 1)

/-- The canonical form of the store. -/
def Memory.wf (m : Memory) : Bool := Memory.wfFrom m 0

/-- An address is masked to 13 bits (R201). -/
def maskAddr (a : Nat) : Addr := BitVec.ofNat 13 a

/-- The address names one of the four words of the bootstrap overlay (R209). -/
def inOverlay (a : Addr) : Bool := decide (a.toNat < 4)

/-- `MemRead(addr)`, the data path (R202). -/
def memRead (s : State) (a : Addr) : Word := if inOverlay a then 0 else s.store.read a.toNat

/-- `ProgRead(addr)`, the fetch path, through a bootstrap table (R203). -/
def progReadThrough (boot : Vector Word 4) (m : Memory) (a : Addr) : Word :=
  if h : a.toNat < 4 then boot[a.toNat] else m.read a.toNat

/-- `ProgRead(addr)`, the fetch path through the configured table (R203, spec/70_reset_and_hazards.md R1110). -/
def progRead (p : Config.Params) (s : State) (a : Addr) : Word := progReadThrough p.bootstrap s.store a

/-- `MemWrite(addr, v)`: unconditional (R204, R205). -/
def memWrite (s : State) (a : Addr) (v : Word) : State := s.setStore (s.store.write a.toNat v)

/-- A queue that holds `ring_capacity` bytes is full (R110). -/
def queueFull (capacity : Nat) (q : List Byte) : Bool := decide (capacity ≤ q.length)

/-- `put(byte)`: rejected, with nothing changed, iff the queue is full (R110, R1010). -/
def queuePut (capacity : Nat) (q : List Byte) (b : Byte) : Option (List Byte) :=
  if queueFull capacity q then none else some (q ++ [b])

/-- `get()`: the oldest byte and the rest, or nothing from an empty queue (R110, R1010). -/
def queueGet (q : List Byte) : Option (Byte × List Byte) :=
  match q with
  | [] => none
  | b :: rest => some (b, rest)

/-- `pc <- (pc + 1) mod 2^14` (R104, R320). -/
def advance (s : State) : State := s.setPc (s.pc + 1)

/-- `OVR <- OVR or o` (R103). -/
def orOvr (s : State) (o : Bool) : State := s.setOvr (s.ovr || o)

/-- `halt(reason)`: mode <- Stop and the reason is recorded; pc stays (R10, R1005, R1006). -/
def halt (r : HaltReason) (s : State) : State := (s.setMode .stop).emit (.halted r)

/-- `hold(unit)`: busy <- unit and nothing else; pc stays, so the same instruction retries (R10, R1007). -/
def hold (d : Device) (s : State) : State := s.setBusy (some d)

end Sys2Proof.Machine
end

