-- ==== Sys2Proof/Machine/Operands.lean ====
section
/-! DEFINITION. Every operand form (spec/30_encoding.md R303): the memory operand, the transfer target, the shift count,
the selector of 65, the unit and the byte of 71 and 74, and the address 73 stores. -/

namespace Sys2Proof.Machine

/-- `n = MemRead(N)`: the memory operand (R303, R322). -/
def operand (s : State) (n : Addr) : Word := memRead s n

/-- The target N.0, half-word address N*2 (spec/45_group4_transfer.md R700). -/
def firstHalfOf (n : Addr) : HalfAddr := n ++ 0#1

/-- The target N.5, half-word address N*2 + 1 (R700). -/
def secondHalfOf (n : Addr) : HalfAddr := n ++ 1#1

/-- The word address pc[13:1] of a half-word address (R104). -/
def wordAddrOf (pc : HalfAddr) : Addr := pc.extractLsb' 1 13

/-- pc[0]: the second half of the word is selected (R104). -/
def selectsSecond (pc : HalfAddr) : Bool := pc.getLsbD 0

/-- `k = N & shift_count_mask` (spec/40_alu.md section 4, spec/46_group5_shift_muldiv.md R750). -/
def shiftCount (p : Config.Params) (n : Addr) : Nat := (n &&& p.shiftCountMask).toNat

/-- N selects the integer-to-float form of 65 (spec/48_group6_float.md R856). -/
def selectsFloatForm (n : Addr) : Bool := decide (n.toNat = 4096)

/-- The unit that N[12:11] selects in 71 and 74 (spec/49_group7_io.md R901). -/
def unitOf (p : Config.Params) (n : Addr) : UnitNo :=
  match (n.extractLsb' 11 2).toFin with
  | 0 => .one
  | 1 => .two
  | 2 => .three
  | 3 => p.unitBoth

/-- The byte 71 ORs into A, as a word: `b & char_mask` (R902). -/
def byteForAcc (p : Config.Params) (b : Byte) : Word := (b &&& p.charMask).setWidth 39

/-- The byte 74 punches: `N & char_mask` (R905). -/
def byteToPunch (p : Config.Params) (n : Addr) : Byte := n.setWidth 8 &&& p.charMask

/-- The word 73 stores: `zext_39(pc[13:1])` (R904). -/
def linkWord (pc : HalfAddr) : Word := (wordAddrOf pc).setWidth 39

end Sys2Proof.Machine
end

