-- ==== Sys2Proof/Machine/Group0.lean ====
section
/-! DEFINITION. Group 0, accumulator operations 00 to 07 (spec/41_group0_accumulator.md R500 to R508). -/

namespace Sys2Proof.Machine

open Host

/-- The common rule of group 0: A <- apply(f, A, A, n), its overflow ORed into OVR (R500). -/
def accumulate (op : AluOp) (n : Addr) (s : State) : State :=
  let r := aluApply op s.acc s.acc (operand s n)
  advance (orOvr (s.setAcc r.1) r.2)

/-- `00`, no-op (R501). -/
def exec00 (n : Addr) (s : State) : Outcome State Fault Refusal := .next (accumulate .noop n s)

/-- `01`, negate (R502). -/
def exec01 (n : Addr) (s : State) : Outcome State Fault Refusal := .next (accumulate .negate n s)

/-- `02`, load and increment (R503). -/
def exec02 (n : Addr) (s : State) : Outcome State Fault Refusal := .next (accumulate .increment n s)

/-- `03`, collate (R504). -/
def exec03 (n : Addr) (s : State) : Outcome State Fault Refusal := .next (accumulate .collate n s)

/-- `04`, add (R505). -/
def exec04 (n : Addr) (s : State) : Outcome State Fault Refusal := .next (accumulate .add n s)

/-- `05`, subtract (R506). -/
def exec05 (n : Addr) (s : State) : Outcome State Fault Refusal := .next (accumulate .subtract n s)

/-- `06`, clear (R507). -/
def exec06 (n : Addr) (s : State) : Outcome State Fault Refusal := .next (accumulate .clear n s)

/-- `07`, negate and add (R508). -/
def exec07 (n : Addr) (s : State) : Outcome State Fault Refusal := .next (accumulate .negateAdd n s)

end Sys2Proof.Machine
end

