-- ==== Sys2Proof/Machine/Group1.lean ====
section
/-! DEFINITION. Group 1, exchange operations 10 to 17 (spec/42_group1_exchange.md R550 to R558). -/

namespace Sys2Proof.Machine

open Host

/-- The common rule of group 1: the old A is written to N, then A <- apply(f, A, old, old), where old is the word N held
before the store (R550, conflict C9). -/
def exchange (op : AluOp) (n : Addr) (s : State) : State :=
  let old := operand s n
  let r := aluApply op s.acc old old
  advance (orOvr ((memWrite s n s.acc).setAcc r.1) r.2)

/-- `10`, exchange (R551). -/
def exec10 (n : Addr) (s : State) : Outcome State Fault Refusal := .next (exchange .noop n s)

/-- `11`, exchange negated (R552). -/
def exec11 (n : Addr) (s : State) : Outcome State Fault Refusal := .next (exchange .negate n s)

/-- `12`, exchange incremented (R553). -/
def exec12 (n : Addr) (s : State) : Outcome State Fault Refusal := .next (exchange .increment n s)

/-- `13`, collate and store (R554). -/
def exec13 (n : Addr) (s : State) : Outcome State Fault Refusal := .next (exchange .collate n s)

/-- `14`, add and store (R555). -/
def exec14 (n : Addr) (s : State) : Outcome State Fault Refusal := .next (exchange .add n s)

/-- `15`, subtract and store (R556). -/
def exec15 (n : Addr) (s : State) : Outcome State Fault Refusal := .next (exchange .subtract n s)

/-- `16`, store and clear (R557). -/
def exec16 (n : Addr) (s : State) : Outcome State Fault Refusal := .next (exchange .clear n s)

/-- `17`, negate-add and store (R558). -/
def exec17 (n : Addr) (s : State) : Outcome State Fault Refusal := .next (exchange .negateAdd n s)

end Sys2Proof.Machine
end

