-- ==== Sys2Proof/Machine/Group2.lean ====
section
/-! DEFINITION. Group 2, store operations 20 to 27 (spec/43_group2_store.md R600 to R608). -/

namespace Sys2Proof.Machine

open Host

/-- The common rule of group 2: word N <- apply(f, A, A, n), A unchanged (R600). -/
def storeBack (op : AluOp) (n : Addr) (s : State) : State :=
  let r := aluApply op s.acc s.acc (operand s n)
  advance (orOvr (memWrite s n r.1) r.2)

/-- `20`, store (R601). -/
def exec20 (n : Addr) (s : State) : Outcome State Fault Refusal := .next (storeBack .noop n s)

/-- `21`, store negated (R602). -/
def exec21 (n : Addr) (s : State) : Outcome State Fault Refusal := .next (storeBack .negate n s)

/-- `22`, increment store (R603). -/
def exec22 (n : Addr) (s : State) : Outcome State Fault Refusal := .next (storeBack .increment n s)

/-- `23`, collate into store (R604). -/
def exec23 (n : Addr) (s : State) : Outcome State Fault Refusal := .next (storeBack .collate n s)

/-- `24`, add into store (R605). -/
def exec24 (n : Addr) (s : State) : Outcome State Fault Refusal := .next (storeBack .add n s)

/-- `25`, subtract into store (R606). -/
def exec25 (n : Addr) (s : State) : Outcome State Fault Refusal := .next (storeBack .subtract n s)

/-- `26`, clear store (R607). -/
def exec26 (n : Addr) (s : State) : Outcome State Fault Refusal := .next (storeBack .clear n s)

/-- `27`, negate-add into store (R608). -/
def exec27 (n : Addr) (s : State) : Outcome State Fault Refusal := .next (storeBack .negateAdd n s)

end Sys2Proof.Machine
end

