-- ==== Sys2Proof/Machine/Group3.lean ====
section
/-! DEFINITION. Group 3, replace operations 30 to 37 (spec/44_group3_replace.md R650 to R658). -/

namespace Sys2Proof.Machine

open Host

/-- The common rule of group 3: word N <- apply(f, A, old, old) and A <- old (R650). -/
def replace (op : AluOp) (n : Addr) (s : State) : State :=
  let old := operand s n
  let r := aluApply op s.acc old old
  advance (orOvr ((memWrite s n r.1).setAcc old) r.2)

/-- `30`, load (R651). -/
def exec30 (n : Addr) (s : State) : Outcome State Fault Refusal := .next (replace .noop n s)

/-- `31`, load and negate store (R652). -/
def exec31 (n : Addr) (s : State) : Outcome State Fault Refusal := .next (replace .negate n s)

/-- `32`, load and increment store (R653). -/
def exec32 (n : Addr) (s : State) : Outcome State Fault Refusal := .next (replace .increment n s)

/-- `33`, load and collate store (R654). -/
def exec33 (n : Addr) (s : State) : Outcome State Fault Refusal := .next (replace .collate n s)

/-- `34`, load and add into store (R655). -/
def exec34 (n : Addr) (s : State) : Outcome State Fault Refusal := .next (replace .add n s)

/-- `35`, load and subtract into store (R656). -/
def exec35 (n : Addr) (s : State) : Outcome State Fault Refusal := .next (replace .subtract n s)

/-- `36`, load and clear store (R657). -/
def exec36 (n : Addr) (s : State) : Outcome State Fault Refusal := .next (replace .clear n s)

/-- `37`, load and negate-add store (R658). -/
def exec37 (n : Addr) (s : State) : Outcome State Fault Refusal := .next (replace .negateAdd n s)

end Sys2Proof.Machine
end

