-- ==== Sys2Proof/Machine/Group4.lean ====
section
/-! DEFINITION. Group 4, transfers 40 to 47 (spec/45_group4_transfer.md R700 to R709). -/

namespace Sys2Proof.Machine

open Host

/-- The condition of a transfer: bits 1:0 of the variant (R700). -/
inductive TransferCond where
  | always
  | negative
  | zero
  | overflow
  deriving DecidableEq, Repr

/-- The transfer is taken (R700). -/
def transferTaken (c : TransferCond) (s : State) : Bool :=
  match c with
  | .always => true
  | .negative => s.acc.getLsbD 38
  | .zero => decide (s.acc = 0)
  | .overflow => s.ovr

/-- A taken transfer: a self-jump halts, but not of an overflow transfer, which clears OVR instead (R700, R701). -/
def takeTransfer (c : TransferCond) (target : HalfAddr) (s : State) : State :=
  if c = .overflow then (s.setOvr false).setPc target
  else if target = s.pc then (halt .selfJump s).setPc target
  else s.setPc target

/-- The common rule of group 4 (R700). -/
def transfer (c : TransferCond) (target : HalfAddr) (s : State) : State :=
  if transferTaken c s then takeTransfer c target s else advance s

/-- `40`, transfer unconditionally to N.0 (R702). -/
def exec40 (n : Addr) (s : State) : Outcome State Fault Refusal := .next (transfer .always (firstHalfOf n) s)

/-- `41`, transfer to N.0 if A is negative (R703). -/
def exec41 (n : Addr) (s : State) : Outcome State Fault Refusal := .next (transfer .negative (firstHalfOf n) s)

/-- `42`, transfer to N.0 if A is zero (R704). -/
def exec42 (n : Addr) (s : State) : Outcome State Fault Refusal := .next (transfer .zero (firstHalfOf n) s)

/-- `43`, transfer to N.0 if OVR is set, clearing it (R705). -/
def exec43 (n : Addr) (s : State) : Outcome State Fault Refusal := .next (transfer .overflow (firstHalfOf n) s)

/-- `44`, transfer unconditionally to N.5 (R706). -/
def exec44 (n : Addr) (s : State) : Outcome State Fault Refusal := .next (transfer .always (secondHalfOf n) s)

/-- `45`, transfer to N.5 if A is negative (R707). -/
def exec45 (n : Addr) (s : State) : Outcome State Fault Refusal := .next (transfer .negative (secondHalfOf n) s)

/-- `46`, transfer to N.5 if A is zero (R708). -/
def exec46 (n : Addr) (s : State) : Outcome State Fault Refusal := .next (transfer .zero (secondHalfOf n) s)

/-- `47`, transfer to N.5 if OVR is set, clearing it (R709). -/
def exec47 (n : Addr) (s : State) : Outcome State Fault Refusal := .next (transfer .overflow (secondHalfOf n) s)

end Sys2Proof.Machine
end

