-- ==== Sys2Proof/Machine/Group5.lean ====
section
/-! DEFINITION. Group 5, shifts, multiply and divide 50 to 57 (spec/46_group5_shift_muldiv.md R750 to R758). -/

namespace Sys2Proof.Machine

open Host

/-- A:AR written with a double-length result (R750). -/
def setDouble (s : State) (d : Word × Aux) : State := (s.setAcc d.1).setAux d.2

/-- 50: `(A, AR) <- shr_dl(A, AR, k)` (R751). -/
def shiftRightLong (p : Config.Params) (n : Addr) (s : State) : State :=
  advance (setDouble s (shiftRightDouble s.acc s.aux (shiftCount p n)))

/-- 51: `A <- shr_l(A, k); AR <- 0` (R752). -/
def shiftRightShort (p : Config.Params) (n : Addr) (s : State) : State :=
  advance (setDouble s (shiftRightLogical s.acc (shiftCount p n), 0))

/-- 52: `(A, AR) <- multiply(A, n)`; OVR unchanged (R753). -/
def multiplyLong (n : Addr) (s : State) : State :=
  advance (setDouble s (aluMultiply s.acc (operand s n)))

/-- The high word of a product rounded by the top bit of its low part; a carry out of MAX wraps (R754). -/
def roundProduct (p : Word × Aux) : Word := wordOfInt (p.1.toInt + (p.2.getLsbD 37).toNat)

/-- 53: the rounded single-length product, AR <- 0; OVR unchanged (R754). -/
def multiplyShort (n : Addr) (s : State) : State :=
  advance (setDouble s (roundProduct (aluMultiply s.acc (operand s n)), 0))

/-- 54: `(A, AR, o) <- shl_dl(A, AR, k); OVR <- OVR or o` (R755). -/
def shiftLeftLong (p : Config.Params) (n : Addr) (s : State) : State :=
  let r := shiftLeftDouble s.acc s.aux (shiftCount p n)
  advance (orOvr (setDouble s (r.1, r.2.1)) r.2.2)

/-- 55: `(A, o) <- shl_s(A, k); AR <- 0; OVR <- OVR or o` (R756). -/
def shiftLeftShort (p : Config.Params) (n : Addr) (s : State) : State :=
  let r := shiftLeftSingle s.acc (shiftCount p n)
  advance (orOvr (setDouble s (r.1, 0)) r.2)

/-- 56: on a divisor 0 OVR <- 1 with A and AR unchanged, else A <- quotient, AR <- 0 (R757, R414). -/
def divideLong (n : Addr) (s : State) : State :=
  let r := aluDivide s.acc s.aux (operand s n)
  if r.2 then advance (s.setOvr true) else advance (setDouble s (r.1, 0))

/-- 57: `A <- zext_39(AR)`, AR unchanged (R758). -/
def copyAux (s : State) : State := advance (s.setAcc (wordOfAux s.aux))

/-- `50`, double-length arithmetic shift right of A:AR, under any configuration (R751). -/
def exec50With (p : Config.Params) (n : Addr) (s : State) : Outcome State Fault Refusal := .next (shiftRightLong p n s)

/-- `50`, double-length arithmetic shift right of A:AR (R751). -/
def exec50 (n : Addr) (s : State) : Outcome State Fault Refusal := exec50With params n s

/-- `51`, single-length logical shift right of A, AR cleared, under any configuration (R752). -/
def exec51With (p : Config.Params) (n : Addr) (s : State) : Outcome State Fault Refusal := .next (shiftRightShort p n s)

/-- `51`, single-length logical shift right of A, AR cleared (R752). -/
def exec51 (n : Addr) (s : State) : Outcome State Fault Refusal := exec51With params n s

/-- `52`, double-length multiply (R753). -/
def exec52 (n : Addr) (s : State) : Outcome State Fault Refusal := .next (multiplyLong n s)

/-- `53`, single-length multiply, rounded, AR cleared (R754). -/
def exec53 (n : Addr) (s : State) : Outcome State Fault Refusal := .next (multiplyShort n s)

/-- `54`, double-length arithmetic shift left of A:AR, under any configuration (R755). -/
def exec54With (p : Config.Params) (n : Addr) (s : State) : Outcome State Fault Refusal := .next (shiftLeftLong p n s)

/-- `54`, double-length arithmetic shift left of A:AR (R755). -/
def exec54 (n : Addr) (s : State) : Outcome State Fault Refusal := exec54With params n s

/-- `55`, single-length left shift of A, AR cleared, under any configuration (R756). -/
def exec55With (p : Config.Params) (n : Addr) (s : State) : Outcome State Fault Refusal := .next (shiftLeftShort p n s)

/-- `55`, single-length left shift of A, AR cleared (R756). -/
def exec55 (n : Addr) (s : State) : Outcome State Fault Refusal := exec55With params n s

/-- `56`, double-length divide (R757). -/
def exec56 (n : Addr) (s : State) : Outcome State Fault Refusal := .next (divideLong n s)

/-- `57`, copy AR to A without clearing AR (R758). N is ignored. -/
def exec57 (_n : Addr) (s : State) : Outcome State Fault Refusal := .next (copyAux s)

end Sys2Proof.Machine
end

