-- ==== Sys2Proof/Machine/Group6.lean ====
section
/-! DEFINITION. Group 6, floating point 60 to 67 (spec/48_group6_float.md R850 to R858). -/

namespace Sys2Proof.Machine

open Host

/-- A float result written to A, its overflow ORed into OVR; AR unchanged (R850). -/
def floatResult (r : Word × Bool) (s : State) : State := advance (orOvr (s.setAcc r.1) r.2)

/-- 65 (R856). -/
def floatOrShift (p : Config.Params) (n : Addr) (s : State) : State :=
  if selectsFloatForm n then floatResult ((floatUnit p).ffix s.acc) s
  else advance (s.setAcc (shiftLeftFast s.acc n))

/-- `60`, float add, under any configuration (R851). -/
def exec60With (p : Config.Params) (n : Addr) (s : State) : Outcome State Fault Refusal := .next (floatResult ((floatUnit p).fadd s.acc (operand s n)) s)

/-- `60`, float add (R851). -/
def exec60 (n : Addr) (s : State) : Outcome State Fault Refusal := exec60With params n s

/-- `61`, float subtract, A - n, under any configuration (R852). -/
def exec61With (p : Config.Params) (n : Addr) (s : State) : Outcome State Fault Refusal := .next (floatResult (fsub (floatUnit p) s.acc (operand s n)) s)

/-- `61`, float subtract, A - n (R852). -/
def exec61 (n : Addr) (s : State) : Outcome State Fault Refusal := exec61With params n s

/-- `62`, float reverse subtract, n - A, under any configuration (R853). -/
def exec62With (p : Config.Params) (n : Addr) (s : State) : Outcome State Fault Refusal := .next (floatResult (fsub (floatUnit p) (operand s n) s.acc) s)

/-- `62`, float reverse subtract, n - A (R853). -/
def exec62 (n : Addr) (s : State) : Outcome State Fault Refusal := exec62With params n s

/-- `63`, float multiply, under any configuration (R854). -/
def exec63With (p : Config.Params) (n : Addr) (s : State) : Outcome State Fault Refusal := .next (floatResult ((floatUnit p).fmpy s.acc (operand s n)) s)

/-- `63`, float multiply (R854). -/
def exec63 (n : Addr) (s : State) : Outcome State Fault Refusal := exec63With params n s

/-- `64`, float divide, A / n, under any configuration (R855). -/
def exec64With (p : Config.Params) (n : Addr) (s : State) : Outcome State Fault Refusal := .next (floatResult ((floatUnit p).fdiv s.acc (operand s n)) s)

/-- `64`, float divide, A / n (R855). -/
def exec64 (n : Addr) (s : State) : Outcome State Fault Refusal := exec64With params n s

/-- `65`, integer-to-float standardise (N = 4096) or fast left shift (other N), under any configuration (R856). -/
def exec65With (p : Config.Params) (n : Addr) (s : State) : Outcome State Fault Refusal := .next (floatOrShift p n s)

/-- `65`, integer-to-float standardise (N = 4096) or fast left shift (other N) (R856). -/
def exec65 (n : Addr) (s : State) : Outcome State Fault Refusal := exec65With params n s

/-- `66`, unimplemented (R857). N is ignored. -/
def exec66 (_n : Addr) (s : State) : Outcome State Fault Refusal := .next (halt (.unimplemented 0o66) s)

/-- `67`, unimplemented (R858). N is ignored. -/
def exec67 (_n : Addr) (s : State) : Outcome State Fault Refusal := .next (halt (.unimplemented 0o67) s)

end Sys2Proof.Machine
end

