-- ==== Sys2Proof/Machine/Group7.lean ====
section
/-! DEFINITION. Group 7, word generator, input, output and link 70 to 77 (spec/49_group7_io.md R900 to R908). -/

namespace Sys2Proof.Machine

open Host

/-- 70: `A <- WG; poll <- poll + 1` (R900). -/
def readGenerator (s : State) : State := advance ((s.setAcc s.wg).setPoll (s.poll + 1))

/-- 71 on reader u: hold when its buffer is empty, else the oldest byte is taken and ORed into A (R902). -/
def readByte (p : Config.Params) (u : UnitNo) (s : State) : State :=
  match queueGet (s.readers.get u) with
  | none => hold (.reader u) s
  | some (b, rest) => advance ((s.setReaders (s.readers.set u rest)).setAcc (s.acc ||| byteForAcc p b))

/-- 73: `MemWrite(N, zext_39(pc[13:1]))` (R904). -/
def storeLink (n : Addr) (s : State) : State := advance (memWrite s n (linkWord s.pc))

/-- 74 on punch u: hold when its buffer is full, else the byte is put in it (R905). -/
def punchByte (p : Config.Params) (u : UnitNo) (b : Byte) (s : State) : State :=
  match queuePut p.ringCapacity (s.punches.get u) b with
  | none => hold (.punch u) s
  | some q => advance (s.setPunches (s.punches.set u q))

/-- `70`, read the word generator (R900). N is ignored. -/
def exec70 (_n : Addr) (s : State) : Outcome State Fault Refusal := .next (readGenerator s)

/-- `71`, read one byte, under any configuration (R902). -/
def exec71With (p : Config.Params) (n : Addr) (s : State) : Outcome State Fault Refusal := .next (readByte p (unitOf p n) s)

/-- `71`, read one byte (R902). -/
def exec71 (n : Addr) (s : State) : Outcome State Fault Refusal := exec71With params n s

/-- `72`, unimplemented (R903). N is ignored. -/
def exec72 (_n : Addr) (s : State) : Outcome State Fault Refusal := .next (halt (.unimplemented 0o72) s)

/-- `73`, store the address of this instruction (R904). -/
def exec73 (n : Addr) (s : State) : Outcome State Fault Refusal := .next (storeLink n s)

/-- `74`, punch one byte, under any configuration (R905). -/
def exec74With (p : Config.Params) (n : Addr) (s : State) : Outcome State Fault Refusal := .next (punchByte p (unitOf p n) (byteToPunch p n) s)

/-- `74`, punch one byte (R905). -/
def exec74 (n : Addr) (s : State) : Outcome State Fault Refusal := exec74With params n s

/-- `75`, unimplemented (film handler) (R906). N is ignored. -/
def exec75 (_n : Addr) (s : State) : Outcome State Fault Refusal := .next (halt (.unimplemented 0o75) s)

/-- `76`, unimplemented (film handler) (R907). N is ignored. -/
def exec76 (_n : Addr) (s : State) : Outcome State Fault Refusal := .next (halt (.unimplemented 0o76) s)

/-- `77`, unimplemented (film handler) (R908). N is ignored. -/
def exec77 (_n : Addr) (s : State) : Outcome State Fault Refusal := .next (halt (.unimplemented 0o77) s)

end Sys2Proof.Machine
end

