-- ==== Sys2Proof/Syntax.lean ====
section
/-! DEFINITION. The abstract syntax of the instruction set: one constructor per row of spec/opcode_table.json, named by
its two-octal-digit opcode, since the spec gives no mnemonics (spec/30_encoding.md R343). -/

namespace Sys2Proof

/-- A half-instruction: its opcode F is the constructor's two octal digits and `n` is its 13-bit address field N
(R301, R303, R330). -/
inductive Instr where
  /-- `00`: no-op (R501). -/
  | op00 (n : Addr)
  /-- `01`: negate (R502). -/
  | op01 (n : Addr)
  /-- `02`: load and increment (R503). -/
  | op02 (n : Addr)
  /-- `03`: collate (R504). -/
  | op03 (n : Addr)
  /-- `04`: add (R505). -/
  | op04 (n : Addr)
  /-- `05`: subtract (R506). -/
  | op05 (n : Addr)
  /-- `06`: clear (R507). -/
  | op06 (n : Addr)
  /-- `07`: negate and add (R508). -/
  | op07 (n : Addr)
  /-- `10`: exchange (R551). -/
  | op10 (n : Addr)
  /-- `11`: exchange negated (R552). -/
  | op11 (n : Addr)
  /-- `12`: exchange incremented (R553). -/
  | op12 (n : Addr)
  /-- `13`: collate and store (R554). -/
  | op13 (n : Addr)
  /-- `14`: add and store (R555). -/
  | op14 (n : Addr)
  /-- `15`: subtract and store (R556). -/
  | op15 (n : Addr)
  /-- `16`: store and clear (R557). -/
  | op16 (n : Addr)
  /-- `17`: negate-add and store (R558). -/
  | op17 (n : Addr)
  /-- `20`: store (R601). -/
  | op20 (n : Addr)
  /-- `21`: store negated (R602). -/
  | op21 (n : Addr)
  /-- `22`: increment store (R603). -/
  | op22 (n : Addr)
  /-- `23`: collate into store (R604). -/
  | op23 (n : Addr)
  /-- `24`: add into store (R605). -/
  | op24 (n : Addr)
  /-- `25`: subtract into store (R606). -/
  | op25 (n : Addr)
  /-- `26`: clear store (R607). -/
  | op26 (n : Addr)
  /-- `27`: negate-add into store (R608). -/
  | op27 (n : Addr)
  /-- `30`: load (R651). -/
  | op30 (n : Addr)
  /-- `31`: load and negate store (R652). -/
  | op31 (n : Addr)
  /-- `32`: load and increment store (R653). -/
  | op32 (n : Addr)
  /-- `33`: load and collate store (R654). -/
  | op33 (n : Addr)
  /-- `34`: load and add into store (R655). -/
  | op34 (n : Addr)
  /-- `35`: load and subtract into store (R656). -/
  | op35 (n : Addr)
  /-- `36`: load and clear store (R657). -/
  | op36 (n : Addr)
  /-- `37`: load and negate-add store (R658). -/
  | op37 (n : Addr)
  /-- `40`: transfer unconditionally to N.0 (R702). -/
  | op40 (n : Addr)
  /-- `41`: transfer to N.0 if A is negative (R703). -/
  | op41 (n : Addr)
  /-- `42`: transfer to N.0 if A is zero (R704). -/
  | op42 (n : Addr)
  /-- `43`: transfer to N.0 if OVR is set, clearing it (R705). -/
  | op43 (n : Addr)
  /-- `44`: transfer unconditionally to N.5 (R706). -/
  | op44 (n : Addr)
  /-- `45`: transfer to N.5 if A is negative (R707). -/
  | op45 (n : Addr)
  /-- `46`: transfer to N.5 if A is zero (R708). -/
  | op46 (n : Addr)
  /-- `47`: transfer to N.5 if OVR is set, clearing it (R709). -/
  | op47 (n : Addr)
  /-- `50`: double-length arithmetic shift right of A:AR (R751). -/
  | op50 (n : Addr)
  /-- `51`: single-length logical shift right of A, AR cleared (R752). -/
  | op51 (n : Addr)
  /-- `52`: double-length multiply (R753). -/
  | op52 (n : Addr)
  /-- `53`: single-length multiply, rounded, AR cleared (R754). -/
  | op53 (n : Addr)
  /-- `54`: double-length arithmetic shift left of A:AR (R755). -/
  | op54 (n : Addr)
  /-- `55`: single-length left shift of A, AR cleared (R756). -/
  | op55 (n : Addr)
  /-- `56`: double-length divide (R757). -/
  | op56 (n : Addr)
  /-- `57`: copy AR to A without clearing AR (R758). -/
  | op57 (n : Addr)
  /-- `60`: float add (R851). -/
  | op60 (n : Addr)
  /-- `61`: float subtract, A - n (R852). -/
  | op61 (n : Addr)
  /-- `62`: float reverse subtract, n - A (R853). -/
  | op62 (n : Addr)
  /-- `63`: float multiply (R854). -/
  | op63 (n : Addr)
  /-- `64`: float divide, A / n (R855). -/
  | op64 (n : Addr)
  /-- `65`: integer-to-float standardise (N = 4096) or fast left shift (other N) (R856). -/
  | op65 (n : Addr)
  /-- `66`: unimplemented (R857). -/
  | op66 (n : Addr)
  /-- `67`: unimplemented (R858). -/
  | op67 (n : Addr)
  /-- `70`: read the word generator (R900). -/
  | op70 (n : Addr)
  /-- `71`: read one byte (R902). -/
  | op71 (n : Addr)
  /-- `72`: unimplemented (R903). -/
  | op72 (n : Addr)
  /-- `73`: store the address of this instruction (R904). -/
  | op73 (n : Addr)
  /-- `74`: punch one byte (R905). -/
  | op74 (n : Addr)
  /-- `75`: unimplemented (film handler) (R906). -/
  | op75 (n : Addr)
  /-- `76`: unimplemented (film handler) (R907). -/
  | op76 (n : Addr)
  /-- `77`: unimplemented (film handler) (R908). -/
  | op77 (n : Addr)
  deriving DecidableEq, Repr

end Sys2Proof
end

