-- ==== Sys2Proof/Machine/Configured.lean ====
section
/-! DEFINITION. The meanings under any configuration (spec/00_scope.md R6): only 50, 51, 54, 55, 60 to 65, 71 and 74
depend on a parameter. `exec` of Machine/Dispatch.lean is this function under `params` (`exec_eq` in Laws/Step.lean). -/

namespace Sys2Proof.Machine

open Host

/-- The meaning of an instruction under the configuration `p` (spec/30_encoding.md R330). -/
def execWith (p : Config.Params) (i : Instr) (s : State) : Outcome State Fault Refusal :=
  match i with
  | .op00 n => exec00 n s
  | .op01 n => exec01 n s
  | .op02 n => exec02 n s
  | .op03 n => exec03 n s
  | .op04 n => exec04 n s
  | .op05 n => exec05 n s
  | .op06 n => exec06 n s
  | .op07 n => exec07 n s
  | .op10 n => exec10 n s
  | .op11 n => exec11 n s
  | .op12 n => exec12 n s
  | .op13 n => exec13 n s
  | .op14 n => exec14 n s
  | .op15 n => exec15 n s
  | .op16 n => exec16 n s
  | .op17 n => exec17 n s
  | .op20 n => exec20 n s
  | .op21 n => exec21 n s
  | .op22 n => exec22 n s
  | .op23 n => exec23 n s
  | .op24 n => exec24 n s
  | .op25 n => exec25 n s
  | .op26 n => exec26 n s
  | .op27 n => exec27 n s
  | .op30 n => exec30 n s
  | .op31 n => exec31 n s
  | .op32 n => exec32 n s
  | .op33 n => exec33 n s
  | .op34 n => exec34 n s
  | .op35 n => exec35 n s
  | .op36 n => exec36 n s
  | .op37 n => exec37 n s
  | .op40 n => exec40 n s
  | .op41 n => exec41 n s
  | .op42 n => exec42 n s
  | .op43 n => exec43 n s
  | .op44 n => exec44 n s
  | .op45 n => exec45 n s
  | .op46 n => exec46 n s
  | .op47 n => exec47 n s
  | .op50 n => exec50With p n s
  | .op51 n => exec51With p n s
  | .op52 n => exec52 n s
  | .op53 n => exec53 n s
  | .op54 n => exec54With p n s
  | .op55 n => exec55With p n s
  | .op56 n => exec56 n s
  | .op57 n => exec57 n s
  | .op60 n => exec60With p n s
  | .op61 n => exec61With p n s
  | .op62 n => exec62With p n s
  | .op63 n => exec63With p n s
  | .op64 n => exec64With p n s
  | .op65 n => exec65With p n s
  | .op66 n => exec66 n s
  | .op67 n => exec67 n s
  | .op70 n => exec70 n s
  | .op71 n => exec71With p n s
  | .op72 n => exec72 n s
  | .op73 n => exec73 n s
  | .op74 n => exec74With p n s
  | .op75 n => exec75 n s
  | .op76 n => exec76 n s
  | .op77 n => exec77 n s

end Sys2Proof.Machine
end

