-- ==== Sys2Proof/Machine/Dispatch.lean ====
section
/-! DEFINITION. One arm per instruction (spec/30_encoding.md R330). Every arm is a direct call of a meaning. -/

namespace Sys2Proof.Machine

open Host

def exec (i : Instr) (s : State) : Outcome State Fault Refusal :=
  match i with
  | .op00 n => Sys2Proof.Machine.exec00 n s
  | .op01 n => Sys2Proof.Machine.exec01 n s
  | .op02 n => Sys2Proof.Machine.exec02 n s
  | .op03 n => Sys2Proof.Machine.exec03 n s
  | .op04 n => Sys2Proof.Machine.exec04 n s
  | .op05 n => Sys2Proof.Machine.exec05 n s
  | .op06 n => Sys2Proof.Machine.exec06 n s
  | .op07 n => Sys2Proof.Machine.exec07 n s
  | .op10 n => Sys2Proof.Machine.exec10 n s
  | .op11 n => Sys2Proof.Machine.exec11 n s
  | .op12 n => Sys2Proof.Machine.exec12 n s
  | .op13 n => Sys2Proof.Machine.exec13 n s
  | .op14 n => Sys2Proof.Machine.exec14 n s
  | .op15 n => Sys2Proof.Machine.exec15 n s
  | .op16 n => Sys2Proof.Machine.exec16 n s
  | .op17 n => Sys2Proof.Machine.exec17 n s
  | .op20 n => Sys2Proof.Machine.exec20 n s
  | .op21 n => Sys2Proof.Machine.exec21 n s
  | .op22 n => Sys2Proof.Machine.exec22 n s
  | .op23 n => Sys2Proof.Machine.exec23 n s
  | .op24 n => Sys2Proof.Machine.exec24 n s
  | .op25 n => Sys2Proof.Machine.exec25 n s
  | .op26 n => Sys2Proof.Machine.exec26 n s
  | .op27 n => Sys2Proof.Machine.exec27 n s
  | .op30 n => Sys2Proof.Machine.exec30 n s
  | .op31 n => Sys2Proof.Machine.exec31 n s
  | .op32 n => Sys2Proof.Machine.exec32 n s
  | .op33 n => Sys2Proof.Machine.exec33 n s
  | .op34 n => Sys2Proof.Machine.exec34 n s
  | .op35 n => Sys2Proof.Machine.exec35 n s
  | .op36 n => Sys2Proof.Machine.exec36 n s
  | .op37 n => Sys2Proof.Machine.exec37 n s
  | .op40 n => Sys2Proof.Machine.exec40 n s
  | .op41 n => Sys2Proof.Machine.exec41 n s
  | .op42 n => Sys2Proof.Machine.exec42 n s
  | .op43 n => Sys2Proof.Machine.exec43 n s
  | .op44 n => Sys2Proof.Machine.exec44 n s
  | .op45 n => Sys2Proof.Machine.exec45 n s
  | .op46 n => Sys2Proof.Machine.exec46 n s
  | .op47 n => Sys2Proof.Machine.exec47 n s
  | .op50 n => Sys2Proof.Machine.exec50 n s
  | .op51 n => Sys2Proof.Machine.exec51 n s
  | .op52 n => Sys2Proof.Machine.exec52 n s
  | .op53 n => Sys2Proof.Machine.exec53 n s
  | .op54 n => Sys2Proof.Machine.exec54 n s
  | .op55 n => Sys2Proof.Machine.exec55 n s
  | .op56 n => Sys2Proof.Machine.exec56 n s
  | .op57 n => Sys2Proof.Machine.exec57 n s
  | .op60 n => Sys2Proof.Machine.exec60 n s
  | .op61 n => Sys2Proof.Machine.exec61 n s
  | .op62 n => Sys2Proof.Machine.exec62 n s
  | .op63 n => Sys2Proof.Machine.exec63 n s
  | .op64 n => Sys2Proof.Machine.exec64 n s
  | .op65 n => Sys2Proof.Machine.exec65 n s
  | .op66 n => Sys2Proof.Machine.exec66 n s
  | .op67 n => Sys2Proof.Machine.exec67 n s
  | .op70 n => Sys2Proof.Machine.exec70 n s
  | .op71 n => Sys2Proof.Machine.exec71 n s
  | .op72 n => Sys2Proof.Machine.exec72 n s
  | .op73 n => Sys2Proof.Machine.exec73 n s
  | .op74 n => Sys2Proof.Machine.exec74 n s
  | .op75 n => Sys2Proof.Machine.exec75 n s
  | .op76 n => Sys2Proof.Machine.exec76 n s
  | .op77 n => Sys2Proof.Machine.exec77 n s

end Sys2Proof.Machine
end

