-- ==== Sys2Proof/WellFormed.lean ====
section
/-! DEFINITION. What a well-formed instruction and a well-formed written word are. An instruction's fields are bit
vectors of the encoding's own widths, so every term of `Instr` is well formed (spec/30_encoding.md R331: no reserved
fields). The written forms of R340 and R341 hold numbers that may be out of range; their range checks are here. -/

namespace Sys2Proof

/-- A written word: machine-code text `F1 N1 : F2 N2` (plain) or `F1 N1 / F2 N2` (B-modified), R340, or a bare decimal
literal, R341. The numbers are as written, before any range check. -/
inductive CodeText where
  | code (f1 n1 : Nat) (b : Bool) (f2 n2 : Nat)
  | literal (d : Int)
  deriving DecidableEq, Repr

/-- An opcode is two octal digits, a value below 64 (R301, R340). -/
def opcodeInRange (f : Nat) : Bool := decide (f < 64)

/-- An address field is below 8192 (R5, R301). -/
def addrInRange (n : Nat) : Bool := decide (n < 8192)

/-- A decimal literal is accepted when it lies in MIN to MAX (R341). -/
def literalInRange (d : Int) : Bool := decide (minInt ≤ d ∧ d ≤ maxInt)

/-- The range checks of a written word (R340, R341). -/
def CodeText.wellFormed (t : CodeText) : Bool :=
  match t with
  | .code f1 n1 _ f2 n2 => opcodeInRange f1 && addrInRange n1 && opcodeInRange f2 && addrInRange n2
  | .literal d => literalInRange d

/-- Every instruction is well formed: its address field is 13 bits wide by its type, and R331 reserves nothing. -/
def Instr.wellFormed (_i : Instr) : Bool := true

end Sys2Proof
end

