-- ==== Sys2Proof/Decode.lean ====
section
/-! DEFINITION. The instruction word's fields, decoding and encoding (spec/30_encoding.md R300 to R303, R330, R331). -/

namespace Sys2Proof

/-- F1, word bits 38:33 (R300). -/
def Word.f1 (w : Word) : Opcode := w.extractLsb' 33 6

/-- N1, word bits 32:20 (R300). -/
def Word.n1 (w : Word) : Addr := w.extractLsb' 20 13

/-- B, the B-modifier flag of the first half, word bit 19 (R300). -/
def Word.bflag (w : Word) : Bool := w.getLsbD 19

/-- F2, word bits 18:13 (R300). -/
def Word.f2 (w : Word) : Opcode := w.extractLsb' 13 6

/-- N2, word bits 12:0 (R300). -/
def Word.n2 (w : Word) : Addr := w.extractLsb' 0 13

/-- The first half-instruction, word bits 38:20 (R300). -/
def Word.firstHalf (w : Word) : Half := w.extractLsb' 20 19

/-- The second half-instruction, word bits 18:0 (R300). -/
def Word.secondHalf (w : Word) : Half := w.extractLsb' 0 19

/-- The word that holds two half-instructions and the B flag of the first (R300). -/
def packHalves (first : Half) (b : Bool) (second : Half) : Word := first ++ BitVec.ofBool b ++ second

/-- The word of five field values: F1*2^33 + N1*2^20 + B*2^19 + F2*2^13 + N2 (R300). -/
def packWord (f1 : Opcode) (n1 : Addr) (b : Bool) (f2 : Opcode) (n2 : Addr) : Word :=
  packHalves (f1 ++ n1) b (f2 ++ n2)

/-- F of a half-instruction (R301). -/
def Half.opcode (h : Half) : Opcode := h.extractLsb' 13 6

/-- N of a half-instruction (R301). -/
def Half.addr (h : Half) : Addr := h.extractLsb' 0 13

/-- `group = F[5:3]`, the first octal digit (R302). -/
def Opcode.group (f : Opcode) : BitVec 3 := f.extractLsb' 3 3

/-- `variant = F[2:0]`, the second octal digit (R302). -/
def Opcode.variant (f : Opcode) : BitVec 3 := f.extractLsb' 0 3

/-- Group 0, accumulator operations: the instruction each variant selects (R330). -/
def decodeGroup0 (v : Fin 8) (n : Addr) : Instr :=
  match v with
  | 0 => .op00 n
  | 1 => .op01 n
  | 2 => .op02 n
  | 3 => .op03 n
  | 4 => .op04 n
  | 5 => .op05 n
  | 6 => .op06 n
  | 7 => .op07 n

/-- Group 1, exchange operations: the instruction each variant selects (R330). -/
def decodeGroup1 (v : Fin 8) (n : Addr) : Instr :=
  match v with
  | 0 => .op10 n
  | 1 => .op11 n
  | 2 => .op12 n
  | 3 => .op13 n
  | 4 => .op14 n
  | 5 => .op15 n
  | 6 => .op16 n
  | 7 => .op17 n

/-- Group 2, store operations: the instruction each variant selects (R330). -/
def decodeGroup2 (v : Fin 8) (n : Addr) : Instr :=
  match v with
  | 0 => .op20 n
  | 1 => .op21 n
  | 2 => .op22 n
  | 3 => .op23 n
  | 4 => .op24 n
  | 5 => .op25 n
  | 6 => .op26 n
  | 7 => .op27 n

/-- Group 3, replace operations: the instruction each variant selects (R330). -/
def decodeGroup3 (v : Fin 8) (n : Addr) : Instr :=
  match v with
  | 0 => .op30 n
  | 1 => .op31 n
  | 2 => .op32 n
  | 3 => .op33 n
  | 4 => .op34 n
  | 5 => .op35 n
  | 6 => .op36 n
  | 7 => .op37 n

/-- Group 4, transfers: the instruction each variant selects (R330). -/
def decodeGroup4 (v : Fin 8) (n : Addr) : Instr :=
  match v with
  | 0 => .op40 n
  | 1 => .op41 n
  | 2 => .op42 n
  | 3 => .op43 n
  | 4 => .op44 n
  | 5 => .op45 n
  | 6 => .op46 n
  | 7 => .op47 n

/-- Group 5, shifts, multiply and divide: the instruction each variant selects (R330). -/
def decodeGroup5 (v : Fin 8) (n : Addr) : Instr :=
  match v with
  | 0 => .op50 n
  | 1 => .op51 n
  | 2 => .op52 n
  | 3 => .op53 n
  | 4 => .op54 n
  | 5 => .op55 n
  | 6 => .op56 n
  | 7 => .op57 n

/-- Group 6, floating point: the instruction each variant selects (R330). -/
def decodeGroup6 (v : Fin 8) (n : Addr) : Instr :=
  match v with
  | 0 => .op60 n
  | 1 => .op61 n
  | 2 => .op62 n
  | 3 => .op63 n
  | 4 => .op64 n
  | 5 => .op65 n
  | 6 => .op66 n
  | 7 => .op67 n

/-- Group 7, word generator, input, output and link: the instruction each variant selects (R330). -/
def decodeGroup7 (v : Fin 8) (n : Addr) : Instr :=
  match v with
  | 0 => .op70 n
  | 1 => .op71 n
  | 2 => .op72 n
  | 3 => .op73 n
  | 4 => .op74 n
  | 5 => .op75 n
  | 6 => .op76 n
  | 7 => .op77 n

/-- The opcode map: dispatch by the group, then by the variant; all 64 values of F are decoded (R302, R330, R331). -/
def decodeOp (f : Opcode) (n : Addr) : Instr :=
  match (Opcode.group f).toFin with
  | 0 => decodeGroup0 (Opcode.variant f).toFin n
  | 1 => decodeGroup1 (Opcode.variant f).toFin n
  | 2 => decodeGroup2 (Opcode.variant f).toFin n
  | 3 => decodeGroup3 (Opcode.variant f).toFin n
  | 4 => decodeGroup4 (Opcode.variant f).toFin n
  | 5 => decodeGroup5 (Opcode.variant f).toFin n
  | 6 => decodeGroup6 (Opcode.variant f).toFin n
  | 7 => decodeGroup7 (Opcode.variant f).toFin n

/-- The instruction of a half-instruction. It is total and refuses nothing: every bit pattern decodes (R331). -/
def decodeHalf (h : Half) : Instr := decodeOp (Half.opcode h) (Half.addr h)

/-- The instruction the decoder reads from one row of the opcode table: the half-instruction is the low 19 bits of `w`,
numbered as the table numbers them; the container's bits above bit 18 are no bits of a half-instruction. -/
def decodeTableWord (_nbits w : Nat) : Option Instr := some (decodeHalf (BitVec.ofNat 19 w))

/-- The opcode F of an instruction (R330). -/
def Instr.opcode (i : Instr) : Opcode :=
  match i with
  | .op00 _ => 0o00
  | .op01 _ => 0o01
  | .op02 _ => 0o02
  | .op03 _ => 0o03
  | .op04 _ => 0o04
  | .op05 _ => 0o05
  | .op06 _ => 0o06
  | .op07 _ => 0o07
  | .op10 _ => 0o10
  | .op11 _ => 0o11
  | .op12 _ => 0o12
  | .op13 _ => 0o13
  | .op14 _ => 0o14
  | .op15 _ => 0o15
  | .op16 _ => 0o16
  | .op17 _ => 0o17
  | .op20 _ => 0o20
  | .op21 _ => 0o21
  | .op22 _ => 0o22
  | .op23 _ => 0o23
  | .op24 _ => 0o24
  | .op25 _ => 0o25
  | .op26 _ => 0o26
  | .op27 _ => 0o27
  | .op30 _ => 0o30
  | .op31 _ => 0o31
  | .op32 _ => 0o32
  | .op33 _ => 0o33
  | .op34 _ => 0o34
  | .op35 _ => 0o35
  | .op36 _ => 0o36
  | .op37 _ => 0o37
  | .op40 _ => 0o40
  | .op41 _ => 0o41
  | .op42 _ => 0o42
  | .op43 _ => 0o43
  | .op44 _ => 0o44
  | .op45 _ => 0o45
  | .op46 _ => 0o46
  | .op47 _ => 0o47
  | .op50 _ => 0o50
  | .op51 _ => 0o51
  | .op52 _ => 0o52
  | .op53 _ => 0o53
  | .op54 _ => 0o54
  | .op55 _ => 0o55
  | .op56 _ => 0o56
  | .op57 _ => 0o57
  | .op60 _ => 0o60
  | .op61 _ => 0o61
  | .op62 _ => 0o62
  | .op63 _ => 0o63
  | .op64 _ => 0o64
  | .op65 _ => 0o65
  | .op66 _ => 0o66
  | .op67 _ => 0o67
  | .op70 _ => 0o70
  | .op71 _ => 0o71
  | .op72 _ => 0o72
  | .op73 _ => 0o73
  | .op74 _ => 0o74
  | .op75 _ => 0o75
  | .op76 _ => 0o76
  | .op77 _ => 0o77

/-- The address field N of an instruction (R301). -/
def Instr.addr (i : Instr) : Addr :=
  match i with
  | .op00 n => n
  | .op01 n => n
  | .op02 n => n
  | .op03 n => n
  | .op04 n => n
  | .op05 n => n
  | .op06 n => n
  | .op07 n => n
  | .op10 n => n
  | .op11 n => n
  | .op12 n => n
  | .op13 n => n
  | .op14 n => n
  | .op15 n => n
  | .op16 n => n
  | .op17 n => n
  | .op20 n => n
  | .op21 n => n
  | .op22 n => n
  | .op23 n => n
  | .op24 n => n
  | .op25 n => n
  | .op26 n => n
  | .op27 n => n
  | .op30 n => n
  | .op31 n => n
  | .op32 n => n
  | .op33 n => n
  | .op34 n => n
  | .op35 n => n
  | .op36 n => n
  | .op37 n => n
  | .op40 n => n
  | .op41 n => n
  | .op42 n => n
  | .op43 n => n
  | .op44 n => n
  | .op45 n => n
  | .op46 n => n
  | .op47 n => n
  | .op50 n => n
  | .op51 n => n
  | .op52 n => n
  | .op53 n => n
  | .op54 n => n
  | .op55 n => n
  | .op56 n => n
  | .op57 n => n
  | .op60 n => n
  | .op61 n => n
  | .op62 n => n
  | .op63 n => n
  | .op64 n => n
  | .op65 n => n
  | .op66 n => n
  | .op67 n => n
  | .op70 n => n
  | .op71 n => n
  | .op72 n => n
  | .op73 n => n
  | .op74 n => n
  | .op75 n => n
  | .op76 n => n
  | .op77 n => n

/-- The half-instruction of an instruction: F then N (R301). -/
def encode (i : Instr) : Half := i.opcode ++ i.addr

/-- The word that holds two instructions, the first B-modifying the second when `b` is set (R300). -/
def encodeWord (first : Instr) (b : Bool) (second : Instr) : Word := packHalves (encode first) b (encode second)

end Sys2Proof
end

