-- ==== Sys2Proof/Machine/Fetch.lean ====
section
/-! DEFINITION. Fetch and the B-modifier (spec/30_encoding.md R310, R311), and the placing of one half-instruction where
the next step fetches it. -/

namespace Sys2Proof.Machine

/-- The fetched word with the modifier added to all of it, modulo 2^39, when its B flag is set; the modifier is read
through the data path (R310). -/
def modifiedWord (s : State) (w : Word) : Word := if Word.bflag w then w + memRead s (Word.n1 w) else w

/-- The word that holds the instruction at pc, through the bootstrap overlay (R311). -/
def currentWord (p : Config.Params) (s : State) : Word := progRead p s (wordAddrOf s.pc)

/-- The half-instruction that `Fetch(pc)` returns as (F, N) (R311). -/
def fetchHalf (p : Config.Params) (s : State) : Half :=
  if selectsSecond s.pc then Word.secondHalf (modifiedWord s (currentWord p s)) else Word.firstHalf (currentWord p s)

/-- The instruction that `Fetch(pc)` returns (R311). -/
def fetch (p : Config.Params) (s : State) : Instr := decodeHalf (fetchHalf p s)

/-- A word with one of its halves replaced; when it is the second half the B flag is cleared, so that the half is
fetched unmodified. -/
def placeHalf (second : Bool) (h : Half) (w : Word) : Word :=
  if second then packHalves (Word.firstHalf w) false h else packHalves h (Word.bflag w) (Word.secondHalf w)

/-- A program counter whose word the fetch reads from the store: inside the overlay no written word is ever fetched
(R205), so pc moves to word 4, first half. -/
def fetchablePc (pc : HalfAddr) : HalfAddr := if inOverlay (wordAddrOf pc) then firstHalfOf 4 else pc

/-- A running engine that fetches exactly the half-instruction `h` next (assumption log 14). -/
def withFetchHalf (s : State) (h : Half) : State :=
  let t := ((s.setMode .run).setBusy none).setPc (fetchablePc s.pc)
  let a := wordAddrOf t.pc
  memWrite t a (placeHalf (selectsSecond t.pc) h (t.store.read a.toNat))

end Sys2Proof.Machine
end

