-- ==== Sys2Proof/Machine/Step.lean ====
section
/-! DEFINITION. The engine's step (spec/30_encoding.md R320). -/

namespace Sys2Proof.Machine

open Host

/-- The engine executes: mode is Run and busy is None (R320). -/
abbrev State.live (s : State) : Prop := s.mode = .run ∧ s.busy = none

/-- `Step()` under any configuration: exactly one half-instruction when mode = Run and busy = None, otherwise nothing
changes (R320). -/
def stepWith (p : Config.Params) (s : State) : Outcome State Fault Refusal :=
  if s.live then execWith p (fetch p s) s else .next s

/-- `Step()` of the machine behind the host's interface (R320): `stepWith params` (`step_eq` in Laws/Step.lean). -/
def step (s : State) : Outcome State Fault Refusal := if s.live then exec (fetch params s) s else .next s

/-- `s` with the half-instruction `w` stored where the next step fetches it, and the engine running. -/
def State.withFetchWord (s : State) (_nbits w : Nat) : State := withFetchHalf s (BitVec.ofNat 19 w)

end Sys2Proof.Machine
end

