-- ==== Sys2Proof/Machine/Creation.lean ====
section
/-! DEFINITION. The block at creation, from any `initial_store` (spec/10_state.md R109, R113,
spec/70_reset_and_hazards.md R1102). -/

namespace Sys2Proof.Machine

/-- The canonical list of `count` words from address `a` on with the given contents. -/
def listWords (contents : Nat → Word) (a count : Nat) : Memory :=
  match count with
  | 0 => []
  | count + 1 => Memory.consWord a (contents a) (listWords contents (a + 1) count)

/-- The store with the given contents of all 8192 words. -/
def storeOf (contents : Addr → Word) : Memory := listWords (fun a => contents (maskAddr a)) 0 storeSize

/-- The block at creation: every register zero or None, mode Stop, the buffers empty, the store holding the parameter
`initial_store` (R113, R1102). `State.reset` is this state for the `initial_store` that is all 0 (assumption log 2). -/
def State.created (p : Config.Params) : State := State.reset.setStore (storeOf p.initialStore)

end Sys2Proof.Machine
end

