-- ==== Sys2Proof/Machine/Text.lean ====
section
/-! DEFINITION. The machine-code text of a word and half-word address text, as values (spec/30_encoding.md R340 to
R342). Characters, spacing and parsing are out of scope (spec/00_scope.md R4): a written form is its numbers, a shown
form is its digits. -/

namespace Sys2Proof

/-- The word of a written form; an out-of-range number is rejected (R340, R341). -/
def CodeText.word (t : CodeText) : Option Word :=
  if t.wellFormed then
    match t with
    | .code f1 n1 b f2 n2 =>
      some (packWord (BitVec.ofNat 6 f1) (BitVec.ofNat 13 n1) b (BitVec.ofNat 6 f2) (BitVec.ofNat 13 n2))
    | .literal d => some (wordOfInt d)
  else none

/-- The machine-code text of a word (R340). -/
def textOfWord (w : Word) : CodeText :=
  .code (Word.f1 w).toNat (Word.n1 w).toNat (Word.bflag w) (Word.f2 w).toNat (Word.n2 w).toNat

/-- The last `k` digits of a number in a base, the most significant first. -/
def digits (base k n : Nat) : List Nat :=
  match k with
  | 0 => []
  | k + 1 => digits base k (n / base) ++ [n % base]

/-- A shown word: its text in 2-digit octal opcodes and 4-digit decimal addresses, then the raw value as 10 hexadecimal
digits, 13 octal digits, and a sign with 13 decimal digits (R340). -/
structure ShownWord where
  f1 : List Nat
  n1 : List Nat
  modified : Bool
  f2 : List Nat
  n2 : List Nat
  hex : List Nat
  octal : List Nat
  negative : Bool
  decimal : List Nat
  deriving DecidableEq, Repr

/-- How a word is shown (R340). -/
def showWord (w : Word) : ShownWord where
  f1 := digits 8 2 (Word.f1 w).toNat
  n1 := digits 10 4 (Word.n1 w).toNat
  modified := Word.bflag w
  f2 := digits 8 2 (Word.f2 w).toNat
  n2 := digits 10 4 (Word.n2 w).toNat
  hex := digits 16 10 w.toNat
  octal := digits 8 13 w.toNat
  negative := decide (w.toInt < 0)
  decimal := digits 10 13 w.toInt.natAbs

/-- Half-word address text: `addr`, `addr.0` or `addr.5` (R342). -/
inductive AddrText where
  | bare (addr : Nat)
  | dot0 (addr : Nat)
  | dot5 (addr : Nat)
  deriving DecidableEq, Repr

/-- The half-word address of an address text; an address of 8192 or more is rejected (R342, R1047). -/
def AddrText.pc (t : AddrText) : Option HalfAddr :=
  match t with
  | .bare a => if addrInRange a then some (BitVec.ofNat 14 (a * 2)) else none
  | .dot0 a => if addrInRange a then some (BitVec.ofNat 14 (a * 2)) else none
  | .dot5 a => if addrInRange a then some (BitVec.ofNat 14 (a * 2 + 1)) else none

end Sys2Proof
end

