-- ==== Sys2Proof/Machine/HostInterface.lean ====
section
/-! DEFINITION. The host, the second agent: its operations on the block's state, its loop, and the free interleaving of
engine steps and host operations (spec/60_exceptions.md R1040 to R1056, spec/70_reset_and_hazards.md R1100, R1101). -/

namespace Sys2Proof.Machine

open Host

/-- The arguments of `wg` (R1050). DESIGN CHOICE: `n2` has no modifier form. R1050 writes `n1`/`n2` <decimal>[+modifier]
and gives the suffix an effect for `n1` only, so no operation stands for the suffix on `n2`, neither ignoring it nor
rejecting it nor setting B (spec/93_implementation_defined.md I18; assumption log 18). -/
inductive WgArg where
  | show
  | set (t : CodeText)
  | f1 (v : Nat)
  | f2 (v : Nat)
  | n1 (v : Nat) (modifier : Bool)
  | n2 (v : Nat)
  deriving DecidableEq, Repr

/-- The host operations (R1044 to R1050, R1053 to R1056). `malformed` is a command whose parameters do not parse
(R1043). -/
inductive HostOp where
  | memWrite (addr : Nat) (t : CodeText)
  | memRead (addr : Nat)
  | reset
  | resetRun
  | run (addr : Option AddrText)
  | cont
  | stop
  | reader (unit : Nat) (bytes : List Byte)
  | wg (arg : WgArg)
  | check
  | status
  | close (d : Device)
  | terminate
  | malformed
  deriving DecidableEq, Repr

/-- What `status` reports (R1054). -/
structure StatusReport where
  pc : HalfAddr
  mode : Mode
  ovr : Bool
  busy : Option Device
  acc : Word
  aux : Aux
  /-- the fetched word -/
  word : Word
  /-- pc selects its second half -/
  second : Bool
  /-- the word at the first half's address -/
  operandWord : Word
  /-- if B-modified, the effective second-instruction word -/
  effective : Option Word
  deriving DecidableEq, Repr

/-- The data a host operation answers with; the reply text is out of scope (spec/00_scope.md R4). -/
inductive Reply where
  | done
  | word (w : Word)
  | stopped
  | poll (n : Nat)
  | status (r : StatusReport)
  | terminated
  deriving DecidableEq, Repr

/-- The effect of `reset` (R1100): the store, the buffers and WG are unchanged. -/
def resetEffect (s : State) : State :=
  ((((((s.setAcc 0).setAux 0).setOvr false).setPc 0).setBusy none).setMode .stop).setPoll 0

/-- The effect of `reset run` (R1101). -/
def resetRunEffect (p : Config.Params) (s : State) : State := ((resetEffect s).setMode .run).setWg p.bootWg

/-- The report of `status` (R1054); the operand's target word is read through the data path (R203; assumption
log 20). -/
def statusOf (p : Config.Params) (s : State) : StatusReport where
  pc := s.pc
  mode := s.mode
  ovr := s.ovr
  busy := s.busy
  acc := s.acc
  aux := s.aux
  word := currentWord p s
  second := selectsSecond s.pc
  operandWord := memRead s (Word.n1 (currentWord p s))
  effective := if Word.bflag (currentWord p s) then some (modifiedWord s (currentWord p s)) else none

/-- The word-generator value after `wg` with an argument, or nothing when the argument is out of range (R1050). -/
def wgUpdate (w : Word) (arg : WgArg) : Option Word :=
  match arg with
  | .show => some w
  | .set t => t.word
  | .f1 v =>
    if opcodeInRange v then some (packWord (BitVec.ofNat 6 v) (Word.n1 w) (Word.bflag w) (Word.f2 w) (Word.n2 w)) else none
  | .f2 v =>
    if opcodeInRange v then some (packWord (Word.f1 w) (Word.n1 w) (Word.bflag w) (BitVec.ofNat 6 v) (Word.n2 w)) else none
  | .n1 v modifier =>
    if addrInRange v then
      some (packWord (Word.f1 w) (BitVec.ofNat 13 v) (Word.bflag w || modifier) (Word.f2 w) (Word.n2 w))
    else none
  | .n2 v =>
    if addrInRange v then some (packWord (Word.f1 w) (Word.n1 w) (Word.bflag w) (Word.f2 w) (BitVec.ofNat 13 v)) else none

/-- The reader buffer a unit number names (R1049). -/
def unitOfNumber (n : Nat) : Option UnitNo :=
  match n with
  | 1 => some .one
  | 2 => some .two
  | 3 => some .three
  | _ => none

/-- `reader <unit> <hex-bytes>`: 1 to 32 bytes, all or nothing (R1049). -/
def readerFill (p : Config.Params) (n : Nat) (bytes : List Byte) (s : State) : Option State :=
  match unitOfNumber n with
  | none => none
  | some u =>
    let q := s.readers.get u ++ bytes
    if 1 ≤ bytes.length ∧ bytes.length ≤ 32 ∧ q.length ≤ p.ringCapacity then
      some (s.setReaders (s.readers.set u q))
    else none

/-- `run`: rejected in Run and on a bad address, else pc is set if an address is given, and mode <- Run (R1047). -/
def runEffect (addr : Option AddrText) (s : State) : Option State :=
  match s.mode, addr with
  | .run, _ => none
  | .stop, none => some (s.setMode .run)
  | .stop, some t => t.pc.map fun p => (s.setPc p).setMode .run

/-- Closing a unit empties its buffer (R1055). -/
def closeUnit (d : Device) (s : State) : State :=
  match d with
  | .reader u => s.setReaders (s.readers.set u [])
  | .punch u => s.setPunches (s.punches.set u [])

/-- `check` (R1053). -/
def checkEffect (s : State) : State × Reply :=
  match s.mode with
  | .stop => (s, .stopped)
  | .run => (s.setPoll 0, .poll s.poll)

/-- A host operation's own effect and reply; nothing when it is rejected (R1043 to R1056). -/
def hostEffect (p : Config.Params) (o : HostOp) (s : State) : Option (State × Reply) :=
  match o with
  | .memWrite a t => if addrInRange a then t.word.map fun w => (memWrite s (maskAddr a) w, .done) else none
  | .memRead a => if addrInRange a then some (s, .word (progRead p s (maskAddr a))) else none
  | .reset => some (resetEffect s, .done)
  | .resetRun => some (resetRunEffect p s, .done)
  | .run a => (runEffect a s).map fun t => (t, .done)
  | .cont => some (s.setMode .run, .done)
  | .stop => some (s.setMode .stop, .done)
  | .reader u bytes => (readerFill p u bytes s).map fun t => (t, .done)
  | .wg .show => some (s, .word s.wg)
  | .wg arg => (wgUpdate s.wg arg).map fun w => (s.setWg w, .done)
  | .check => some (checkEffect s)
  | .status => some (s, .status (statusOf p s))
  | .close d => some (closeUnit d s, .done)
  | .terminate => some (s, .terminated)
  | .malformed => none

/-- A host operation: after success busy <- None, after rejection nothing has changed (R1042, R1043). The reply is
nothing when it was rejected. -/
def hostOp (p : Config.Params) (o : HostOp) (s : State) : State × Option Reply :=
  match hostEffect p o s with
  | none => (s, none)
  | some (t, r) => (t.setBusy none, some r)

/-- The state after an engine step; every step gives a next state. -/
def engineStep (p : Config.Params) (s : State) : State :=
  match stepWith p s with
  | .next t => t
  | .fault _ => s
  | .refused _ => s

/-- At most one byte of one punch buffer is taken and emitted (R1051). -/
def drainPunch (u : UnitNo) (s : State) : State :=
  match queueGet (s.punches.get u) with
  | none => s
  | some (b, rest) => (s.setPunches (s.punches.set u rest)).emit (.punched u b)

/-- One byte of each punch buffer that has one (R1040 (2), R1051). -/
def drainPunches (s : State) : State := drainPunch .three (drainPunch .two (drainPunch .one s))

/-- The busy notice of a reader; nothing for a punch (R1040 (3), R1052). -/
def busyNotice (s : State) : State :=
  match s.busy with
  | some (.reader u) => s.emit (.readerBusy u)
  | some (.punch _) => s
  | none => s

/-- One iteration of the host's loop with at most one command, and the command's reply (R1040). -/
def loopIteration (p : Config.Params) (cmd : Option HostOp) (s : State) : State × Option Reply :=
  let t := busyNotice (drainPunches (engineStep p s))
  match cmd with
  | none => (t, none)
  | some o => hostOp p o t

/-- The host's loop over the commands that arrive, one slot an iteration, until `terminate` (R1040, R1056). -/
def runLoop (p : Config.Params) (cmds : List (Option HostOp)) (s : State) : State :=
  match cmds with
  | [] => s
  | c :: rest =>
    let r := loopIteration p c s
    if r.2 = some .terminated then r.1 else runLoop p rest r.1

/-- One indivisible event: an engine step, or something the host does between steps (spec/20_memory.md R211). -/
inductive Act where
  | step
  | host (o : HostOp)
  | drain (u : UnitNo)
  | notice
  deriving DecidableEq, Repr

/-- The effect of one event. -/
def act (p : Config.Params) (a : Act) (s : State) : State :=
  match a with
  | .step => engineStep p s
  | .host o => (hostOp p o s).1
  | .drain u => drainPunch u s
  | .notice => busyNotice s

/-- The events of a sequence in turn; any sequence may happen, since the interleaving is free (R1041). `terminate` ends
the host's loop, and neither the engine nor the host does anything after it (R1056). -/
def runActs (p : Config.Params) (as : List Act) (s : State) : State :=
  match as with
  | [] => s
  | a :: rest => if a = .host .terminate then act p a s else runActs p rest (act p a s)

end Sys2Proof.Machine
end

