-- ==== Sys2Proof/Safety.lean ====
section
/-! DEFINITION. What counts as a good state and as a safe run, in the terms the claims use. -/

namespace Sys2Proof.Machine

/-- No queue holds more than `ring_capacity` bytes (spec/10_state.md R110). -/
def Buffers.bounded (b : Buffers) (p : Config.Params) : Prop := ∀ u : UnitNo, (b.get u).length ≤ p.ringCapacity

/-- The invariant of every state a block of configuration `p` can be in: the store is in canonical form and no buffer is over-full. -/
structure State.Inv (s : State) (p : Config.Params) : Prop where
  store_wf : s.store.wf = true
  readers_bounded : s.readers.bounded p
  punches_bounded : s.punches.bounded p

/-- The engine cannot go on by itself: it is stopped, or it waits on a unit (spec/30_encoding.md R320,
spec/60_exceptions.md R1005, R1007). -/
def State.stuck (s : State) : Prop := s.mode = .stop ∨ s.busy ≠ none

/-- The instruction is one of the six unimplemented ones (R1006). -/
def unimplementedOp (i : Instr) : Prop :=
  i.opcode = 0o66 ∨ i.opcode = 0o67 ∨ i.opcode = 0o72 ∨ i.opcode = 0o75 ∨ i.opcode = 0o76 ∨ i.opcode = 0o77

/-- From s to t exactly one word of the core store was written, word n with value v: the store keeps v there, every other
word is as it was, the data path still reads 0 below address 4, and the fetch path sees the word unless it lies in the
overlay, whatever the bootstrap table (spec/20_memory.md R202 to R205). -/
def storedOnly (s t : State) (n : Addr) (v : Word) : Prop :=
  t.store.read n.toNat = v ∧
  (∀ a : Nat, a ≠ n.toNat → t.store.read a = s.store.read a) ∧
  (∀ a : Addr, memRead t a = if a.toNat < 4 then 0 else if a = n then v else memRead s a) ∧
  (∀ (p : Config.Params) (a : Addr), progRead p t a = if 4 ≤ a.toNat ∧ a = n then v else progRead p s a)

/-- The ALU operation of an opcode's variant (spec/40_alu.md R400). -/
def AluOp.ofVariant (v : BitVec 3) : AluOp :=
  match v.toFin with
  | 0 => .noop
  | 1 => .negate
  | 2 => .increment
  | 3 => .collate
  | 4 => .add
  | 5 => .subtract
  | 6 => .clear
  | 7 => .negateAdd

/-- The instruction writes word N: it is of group 1, 2 or 3, or is 73 (R550, R600, R650, R904). -/
def storesWord (i : Instr) : Prop :=
  Opcode.group i.opcode = 1 ∨ Opcode.group i.opcode = 2 ∨ Opcode.group i.opcode = 3 ∨ i.opcode = 0o73

/-- The word that an instruction which writes word N puts there: A in group 1, the ALU's result in groups 2 and 3, and
in 73 the address of its own word (R550, R600, R650, R904). -/
def writtenWord (i : Instr) (s : State) : Word :=
  let old := memRead s i.addr
  let op := AluOp.ofVariant (Opcode.variant i.opcode)
  if Opcode.group i.opcode = 1 then s.acc
  else if Opcode.group i.opcode = 2 then (aluApply op s.acc s.acc old).1
  else if Opcode.group i.opcode = 3 then (aluApply op s.acc old old).1
  else BitVec.ofNat 39 (s.pc.toNat / 2)

/-- Every item of the state but A, OVR, pc and the store is the same in s and t. -/
def restUnchanged (s t : State) : Prop :=
  t.aux = s.aux ∧ t.mode = s.mode ∧ t.busy = s.busy ∧ t.wg = s.wg ∧ t.poll = s.poll ∧ t.readers = s.readers ∧
  t.punches = s.punches ∧ t.trace = s.trace

end Sys2Proof.Machine
end

