-- ==== Sys2Proof/Certificates/Slice0/Obligations.lean ====
section
/-! DEFINITION. The statements for the provers, from the spec's numbered rules. Where a statement gives the next state as
`{ s with … }`, it says of every item not named, the whole core store among them, that it is unchanged. A statement that
ends in `holds exec params ∧ ∀ p, holds (execWith p) p`, or in the same of `step` and `stepWith`, says the same of the
machine behind the host's interface and of the block under every configuration (spec/00_scope.md R6). -/

open Sys2Proof Sys2Proof.Machine Host

/-- The host's reset zeroes A, AR, OVR, pc, poll, sets busy None and mode Stop and leaves the store, the six buffers and WG as they were (R1100). `reset run` does the same, then sets mode Run and WG to the parameter boot_wg, and the engine's next word is bootstrap word 0 (R1101). -/
def Obligations.ResetAndResetRunEffects : Prop :=
  ∀ (p : Config.Params) (s : State),
    let r : State := { s with acc := 0, aux := 0, ovr := false, pc := 0, busy := none, mode := .stop, poll := 0 }
    hostOp p .reset s = (r, some .done) ∧
    hostOp p .resetRun s = ({ r with mode := .run, wg := p.bootWg }, some .done) ∧
    currentWord p (hostOp p .resetRun s).1 = p.bootstrap[0]

/-- In the state at creation, that of any configuration and the host interface's own, A, AR, OVR, pc, busy, WG and poll are 0 or None, mode is Stop and the six buffers are empty (R113). It says nothing of the store, whose contents are a parameter. -/
def Obligations.StateAtCreation : Prop :=
  ∀ c : State, c = State.reset ∨ (∃ p : Config.Params, c = State.created p) →
    c.acc = 0 ∧ c.aux = 0 ∧ c.ovr = false ∧ c.pc = 0 ∧ c.busy = none ∧ c.wg = 0 ∧ c.poll = 0 ∧ c.mode = .stop ∧
    ∀ u : UnitNo, c.readers.get u = [] ∧ c.punches.get u = []

/-- After a write to any address the store keeps the word; at addresses 0 to 3 a data read gives 0 and a fetch gives the word of the bootstrap table, any table, whatever was written; at 4 and above both paths give the written word; no other address changes on either path. The premise is the canonical form of the store, which every step keeps. -/
def Obligations.WrittenWordVisibility : Prop :=
  ∀ (p : Config.Params) (s : State) (a : Addr) (v : Word), s.store.wf = true →
    let t := memWrite s a v
    t.store.read a.toNat = v ∧
    (∀ h : a.toNat < 4, memRead t a = 0 ∧ progRead p t a = p.bootstrap[a.toNat]) ∧
    (4 ≤ a.toNat → memRead t a = v ∧ progRead p t a = v) ∧
    (∀ b : Addr, b ≠ a → memRead t b = memRead s b ∧ progRead p t b = progRead p s b)

/-- If the store is in canonical form and no reader or punch buffer holds more than ring_capacity bytes, the same holds after any engine step, under the machine's own configuration and under any other. -/
def Obligations.StepKeepsInvariant : Prop :=
  let keeps := fun (stp : State → Outcome State Fault Refusal) (p : Config.Params) =>
    ∀ s t : State, s.Inv p → stp s = .next t → t.Inv p
  keeps step params ∧ ∀ p : Config.Params, keeps (stepWith p) p

/-- The state created from any configuration has its store in canonical form, holding the parameter initial_store word for word, and its six buffers within their capacity. The host interface's State.reset is the state created from the machine's own configuration, whose initial_store of zeros is the model's choice (log entry 2), and meets the invariant. -/
def Obligations.StateAtCreationMeetsInvariant : Prop :=
  State.reset.Inv params ∧ State.reset = State.created params ∧
  ∀ p : Config.Params, (State.created p).Inv p ∧
    ∀ a : Addr, (State.created p).store.read a.toNat = p.initialStore a

/-- From a state that meets the invariant, any finite sequence of engine steps, host operations (accepted or rejected), punch drains and busy notices, in any order, leads to a state that meets it. Nothing that would come after a `terminate`, no engine step among it, has any effect, in a free sequence of events and in the host's loop alike. -/
def Obligations.EveryEventSequenceKeepsInvariantAndEndsAtTerminate : Prop :=
  ∀ (p : Config.Params) (s : State),
    (∀ as : List Act, s.Inv p → (runActs p as s).Inv p) ∧
    (∀ as bs : List Act, runActs p (as ++ .host .terminate :: bs) s = runActs p (as ++ [.host .terminate]) s) ∧
    (∀ cs ds : List (Option HostOp),
      runLoop p (cs ++ some .terminate :: ds) s = runLoop p (cs ++ [some .terminate]) s)

/-- For every one of the 64 instructions and every value of its address field, decoding its 19-bit encoding gives the same instruction. -/
def Obligations.DecodeOfEncodedInstruction : Prop :=
  ∀ i : Instr, decodeHalf (encode i) = i

/-- Every bit pattern of a word decodes to two half-instructions and a B flag that encode to the same word: no bit is dropped and no two words decode alike. -/
def Obligations.EncodeOfDecodedWord : Prop :=
  ∀ w : Word, encodeWord (decodeHalf (Word.firstHalf w)) (Word.bflag w) (decodeHalf (Word.secondHalf w)) = w

/-- A word packed from F1, N1, B, F2, N2 has the value F1*2^33 + N1*2^20 + B*2^19 + F2*2^13 + N2, and the five fields read from any word have that sum. -/
def Obligations.WordIsSumOfItsFields : Prop :=
  (∀ (f1 : Opcode) (n1 : Addr) (b : Bool) (f2 : Opcode) (n2 : Addr),
    (packWord f1 n1 b f2 n2).toNat =
      f1.toNat * 2 ^ 33 + n1.toNat * 2 ^ 20 + b.toNat * 2 ^ 19 + f2.toNat * 2 ^ 13 + n2.toNat) ∧
  (∀ w : Word,
    w.toNat =
      (Word.f1 w).toNat * 2 ^ 33 + (Word.n1 w).toNat * 2 ^ 20 + (Word.bflag w).toNat * 2 ^ 19 +
        (Word.f2 w).toNat * 2 ^ 13 + (Word.n2 w).toNat)

/-- For every word, the machine-code text that shows its five fields is a well-formed written word whose value is the word. -/
def Obligations.WordTextRoundTrip : Prop :=
  ∀ w : Word, (textOfWord w).word = some w

/-- A bare decimal literal in -2^38 to 2^38-1 is accepted and stands for the word whose two's-complement value it is; any other literal is rejected. -/
def Obligations.DecimalLiteralValue : Prop :=
  ∀ d : Int,
    (-274877906944 ≤ d ∧ d ≤ 274877906943 → ∃ w : Word, (CodeText.literal d).word = some w ∧ w.toInt = d) ∧
    (¬ (-274877906944 ≤ d ∧ d ≤ 274877906943) → (CodeText.literal d).word = none)

/-- The 19-bit patterns of `04 100`, `20 31`, `44 9`, `55 5`, `65 4096` and `74 2053`, written from the encoding, decode to those instructions. -/
def Obligations.WrittenHalvesDecode : Prop :=
  decodeHalf 0b0001000000001100100#19 = .op04 100 ∧
  decodeHalf 0b0100000000000011111#19 = .op20 31 ∧
  decodeHalf 0b1001000000000001001#19 = .op44 9 ∧
  decodeHalf 0b1011010000000000101#19 = .op55 5 ∧
  decodeHalf 0b1101011000000000000#19 = .op65 4096 ∧
  decodeHalf 0b1111000100000000101#19 = .op74 2053

/-- The word at pc >> 1 is read through the bootstrap overlay, whatever its table; at an even pc its F1, N1 are the instruction; at an odd pc its F2, N2 are, after the word at N1, read through the data path, has been added to the whole word if the B flag is set. -/
def Obligations.FetchSelectsHalf : Prop :=
  ∀ (p : Config.Params) (s : State),
    let w := progRead p s (BitVec.ofNat 13 (s.pc.toNat / 2))
    let m := w + memRead s (Word.n1 w)
    (s.pc.toNat % 2 = 0 → fetch p s = decodeOp (Word.f1 w) (Word.n1 w)) ∧
    (s.pc.toNat % 2 = 1 → Word.bflag w = false → fetch p s = decodeOp (Word.f2 w) (Word.n2 w)) ∧
    (s.pc.toNat % 2 = 1 → Word.bflag w = true → fetch p s = decodeOp (Word.f2 m) (Word.n2 m))

/-- With mode Run and busy None, under the machine's own configuration (step, exec) and under any other (stepWith, execWith), a step is exec of the instruction that the fetched half-instruction decodes to; exec itself advances pc where the rule does. Otherwise the step changes nothing. -/
def Obligations.StepRunsFetchedInstruction : Prop :=
  let runs := fun (stp : State → Outcome State Fault Refusal) (run : Instr → State → Outcome State Fault Refusal)
      (p : Config.Params) =>
    ∀ (s : State) (i : Instr),
      (s.mode = .run → s.busy = none → decodeHalf (fetchHalf p s) = i → stp s = run i s) ∧
      (s.mode = .stop ∨ s.busy ≠ none → stp s = .next s)
  runs step exec params ∧ ∀ p : Config.Params, runs (stepWith p) (execWith p) p

/-- From a state with mode Stop or busy set, any number of engine steps leaves the state exactly as it is: only the host can end a halt or a hold. -/
def Obligations.StuckEngineStaysAsItIs : Prop :=
  ∀ (k : Nat) (s : State), s.stuck → Host.Core.run Sys2Proof.core k s = Outcome.next s

/-- Every engine step in every state gives a next state: the block has no traps, and every instruction has its meaning. -/
def Obligations.EveryStepGivesNextState : Prop :=
  ∀ s : State, (∃ t : State, step s = .next t) ∧ ∀ p : Config.Params, ∃ t : State, stepWith p s = .next t

/-- After any instruction pc is one more (mod 2^14), or a transfer's target N*2 (40 to 43) or N*2+1 (44 to 47), or unchanged after an unimplemented opcode or a hold of 71 or 74. -/
def Obligations.ProgramCounterAfterInstruction : Prop :=
  let holds := fun run : Instr → State → Outcome State Fault Refusal =>
    ∀ (i : Instr) (s t : State), run i s = .next t →
      t.pc = s.pc + 1 ∨
      (Opcode.group i.opcode = 4 ∧ i.opcode.toNat < 36 ∧ t.pc.toNat = i.addr.toNat * 2) ∨
      (Opcode.group i.opcode = 4 ∧ 36 ≤ i.opcode.toNat ∧ t.pc.toNat = i.addr.toNat * 2 + 1) ∨
      (t.pc = s.pc ∧ unimplementedOp i) ∨
      (t.pc = s.pc ∧ (i.opcode = 0o71 ∨ i.opcode = 0o74) ∧ t.busy ≠ none)
  holds exec ∧ ∀ p : Config.Params, holds (execWith p)

/-- When the first half of word n, n at least 4, is `20 n`, the next step fetches the stored word afresh: an unmodified second half that executes next is the second half of A. -/
def Obligations.SelfModifiedSecondHalfIsFetched : Prop :=
  let holds := fun (stp : State → Outcome State Fault Refusal) (p : Config.Params) =>
    ∀ (s : State) (n : Addr), s.live → s.store.wf = true → 4 ≤ n.toNat → s.pc = firstHalfOf n → fetch p s = .op20 n →
      ∃ t : State, stp s = .next t ∧ t.pc = secondHalfOf n ∧ currentWord p t = s.acc ∧
        (Word.bflag s.acc = false → fetch p t = decodeOp (Word.f2 s.acc) (Word.n2 s.acc))
  holds step params ∧ ∀ p : Config.Params, holds (stepWith p) p

/-- When the first half of a B-modified word writes a word, in any of the forms that do (10 to 37 and 73), the second half that executes next is modified by that word as the first half left it: by what it wrote, for N from 4 up; by 0, for N below 4, where the data path reads 0 whatever was written. If the word written is the instruction's own, the second half is that of the new word, modified if the new word says so. -/
def Obligations.ModifierIsReadAfterFirstHalf : Prop :=
  let holds := fun (stp : State → Outcome State Fault Refusal) (p : Config.Params) =>
    ∀ (s : State) (i : Instr), s.live → s.store.wf = true → s.pc.toNat % 2 = 0 → fetch p s = i → storesWord i →
      Word.bflag (currentWord p s) = true →
      let w := currentWord p s
      let v := writtenWord i s
      ∃ t : State, stp s = .next t ∧ t.pc = s.pc + 1 ∧
        (i.addr.toNat < 4 → fetchHalf p t = Word.secondHalf w) ∧
        (4 ≤ i.addr.toNat → i.addr ≠ wordAddrOf s.pc → fetchHalf p t = Word.secondHalf (w + v)) ∧
        (4 ≤ i.addr.toNat → i.addr = wordAddrOf s.pc →
          fetchHalf p t = Word.secondHalf (if Word.bflag v then v + memRead t (Word.n1 v) else v))
  holds step params ∧ ∀ p : Config.Params, holds (stepWith p) p

/-- If a step of a live engine leaves busy set, nothing but busy has changed, mode is still Run, and once busy is cleared the same instruction is fetched again. -/
def Obligations.HeldInstructionRetries : Prop :=
  let holds := fun (stp : State → Outcome State Fault Refusal) (p : Config.Params) =>
    ∀ s t : State, s.live → stp s = .next t → t.busy ≠ none →
      (∃ d : Device, t = { s with busy := some d }) ∧ t.mode = .run ∧ fetch p (t.setBusy none) = fetch p s
  holds step params ∧ ∀ p : Config.Params, holds (stepWith p) p

/-- If OVR is set before an instruction and clear after it, the instruction is 43 or 47. -/
def Obligations.OverflowFlagIsSticky : Prop :=
  let holds := fun run : Instr → State → Outcome State Fault Refusal =>
    ∀ (i : Instr) (s t : State), run i s = .next t → s.ovr = true → t.ovr = false → i.opcode = 0o43 ∨ i.opcode = 0o47
  holds exec ∧ ∀ p : Config.Params, holds (execWith p)

/-- An instruction changes mode only to Stop, and only if it is an unimplemented opcode or a transfer other than 43 and 47 that leaves pc where it is. It changes busy only if it is 71 on an empty reader or 74 on a full punch. -/
def Obligations.ModeAndBusyChangeOnlyByHaltAndHold : Prop :=
  let holds := fun (run : Instr → State → Outcome State Fault Refusal) (p : Config.Params) =>
    ∀ (i : Instr) (s t : State), run i s = .next t →
      (t.mode = s.mode ∨
        (t.mode = .stop ∧ t.pc = s.pc ∧
          (unimplementedOp i ∨ (Opcode.group i.opcode = 4 ∧ i.opcode ≠ 0o43 ∧ i.opcode ≠ 0o47)))) ∧
      (t.busy = s.busy ∨
        (i.opcode = 0o71 ∧ s.readers.get (unitOf p i.addr) = [] ∧ t.busy = some (.reader (unitOf p i.addr))) ∨
        (i.opcode = 0o74 ∧ p.ringCapacity ≤ (s.punches.get (unitOf p i.addr)).length ∧
          t.busy = some (.punch (unitOf p i.addr))))
  holds exec params ∧ ∀ p : Config.Params, holds (execWith p) p

/-- No instruction writes WG; only 70 changes poll, by one; only group 5 writes AR; only 71 changes a reader buffer and only 74 a punch buffer. -/
def Obligations.RegistersWrittenOnlyByTheirInstructions : Prop :=
  let holds := fun run : Instr → State → Outcome State Fault Refusal =>
    ∀ (i : Instr) (s t : State), run i s = .next t →
      t.wg = s.wg ∧
      (t.poll = s.poll ∨ (i.opcode = 0o70 ∧ t.poll = s.poll + 1)) ∧
      (t.aux = s.aux ∨ Opcode.group i.opcode = 5) ∧
      (t.readers = s.readers ∨ i.opcode = 0o71) ∧
      (t.punches = s.punches ∨ i.opcode = 0o74)
  holds exec ∧ ∀ p : Config.Params, holds (execWith p)

/-- An instruction leaves the whole store as it was, unless it is of group 1, 2 or 3 or is 73, and then every word but word N is as it was. -/
def Obligations.StoreWrittenOnlyAtOperandAddress : Prop :=
  let holds := fun run : Instr → State → Outcome State Fault Refusal =>
    ∀ (i : Instr) (s t : State), run i s = .next t →
      t.store = s.store ∨
      ((Opcode.group i.opcode = 1 ∨ Opcode.group i.opcode = 2 ∨ Opcode.group i.opcode = 3 ∨ i.opcode = 0o73) ∧
        ∀ a : Nat, a ≠ i.addr.toNat → t.store.read a = s.store.read a)
  holds exec ∧ ∀ p : Config.Params, holds (execWith p)

/-- The result and the overflow indication of no-op, negate, increment, collate, add, subtract, clear and negate-and-add on every operand. -/
def Obligations.AluOperationResults : Prop :=
  ∀ acc a n : Word,
    aluApply .noop acc a n = (a, false) ∧
    (a.toInt = minInt → aluApply .negate acc a n = (a, true)) ∧
    (a.toInt ≠ minInt → aluApply .negate acc a n = (wordOfInt (-a.toInt), false)) ∧
    aluApply .increment acc a n = (wordOfInt (n.toInt + 1), decide (n.toInt = maxInt)) ∧
    aluApply .collate acc a n = (acc &&& n, false) ∧
    aluApply .add acc a n =
      (wordOfInt (acc.toInt + n.toInt), decide (¬ (minInt ≤ acc.toInt + n.toInt ∧ acc.toInt + n.toInt ≤ maxInt))) ∧
    aluApply .subtract acc a n =
      (wordOfInt (acc.toInt - n.toInt), decide (¬ (minInt ≤ acc.toInt - n.toInt ∧ acc.toInt - n.toInt ≤ maxInt))) ∧
    aluApply .clear acc a n = (0, false) ∧
    aluApply .negateAdd acc a n =
      (wordOfInt (n.toInt - acc.toInt), decide (¬ (minInt ≤ n.toInt - acc.toInt ∧ n.toInt - acc.toInt ≤ maxInt)))

/-- For add, subtract, negate-and-add, increment and negate, the two's-complement value of the result equals the exact integer result if and only if the overflow indication is 0. -/
def Obligations.AluResultExactUnlessOverflow : Prop :=
  ∀ acc n : Word,
    ((aluApply .add acc acc n).2 = false ↔ (aluApply .add acc acc n).1.toInt = acc.toInt + n.toInt) ∧
    ((aluApply .subtract acc acc n).2 = false ↔ (aluApply .subtract acc acc n).1.toInt = acc.toInt - n.toInt) ∧
    ((aluApply .negateAdd acc acc n).2 = false ↔ (aluApply .negateAdd acc acc n).1.toInt = n.toInt - acc.toInt) ∧
    ((aluApply .increment acc acc n).2 = false ↔ (aluApply .increment acc acc n).1.toInt = n.toInt + 1) ∧
    ((aluApply .negate acc acc n).2 = false ↔ (aluApply .negate acc acc n).1.toInt = -acc.toInt)

/-- For an addition, and for a subtraction with the sign of the second operand inverted, the two's-complement overflow table on the three signs gives 1 exactly when the exact result lies outside MIN..MAX. -/
def Obligations.OverflowTableIsExactRangeTest : Prop :=
  ∀ x y : Word,
    overflowTable x.msb y.msb (wordOfInt (x.toInt + y.toInt)).msb = outsideWord (x.toInt + y.toInt) ∧
    overflowTable x.msb (!y.msb) (wordOfInt (x.toInt - y.toInt)).msb = outsideWord (x.toInt - y.toInt)

/-- The double-length value of multiply's two results is the exact product of the two operands, except that MIN times MIN gives (MIN, 0). -/
def Obligations.MultiplyGivesExactProduct : Prop :=
  ∀ md mr : Word,
    (¬ (md.toInt = minInt ∧ mr.toInt = minInt) →
      doubleLength (aluMultiply md mr).1 (aluMultiply md mr).2 = md.toInt * mr.toInt) ∧
    (md.toInt = minInt ∧ mr.toInt = minInt → (aluMultiply md mr).1.toInt = minInt ∧ (aluMultiply md mr).2 = 0)

/-- For a non-zero divisor the quotient is the double-length dividend divided by it, rounded toward zero and taken mod 2^39, with no overflow; for a zero divisor the dividend's high word is returned with overflow. -/
def Obligations.DivideTruncatesTowardZero : Prop :=
  ∀ (high : Word) (low : Aux) (d : Word),
    (d.toInt ≠ 0 → aluDivide high low d = (wordOfInt (Int.tdiv (doubleLength high low) d.toInt), false)) ∧
    (d.toInt = 0 → aluDivide high low d = (high, true))

/-- For every count k, the double-length arithmetic right shift gives the double-length value divided by 2^k and floored, and the single-length logical right shift the unsigned value divided by 2^k and floored. -/
def Obligations.RightShiftIsFloorDivision : Prop :=
  ∀ (a : Word) (r : Aux) (k : Nat),
    doubleLength (shiftRightDouble a r k).1 (shiftRightDouble a r k).2 = doubleLength a r / ((2 ^ k : Nat) : Int) ∧
    (shiftRightLogical a k).toNat = a.toNat / 2 ^ k

/-- The shifted pair is the 77-bit pattern times 2^k mod 2^77; for k up to 76 overflow is indicated exactly when bits 76 to 76-k of the pattern are not all equal, and for a larger k exactly when the pattern is not zero. -/
def Obligations.DoubleLeftShiftValueAndOverflow : Prop :=
  ∀ (a : Word) (r : Aux) (k : Nat),
    let v := doublePattern a r
    let d := shiftLeftDouble a r k
    (doublePattern d.1 d.2.1).toNat = v.toNat * 2 ^ k % 2 ^ 77 ∧
    (k ≤ 76 → (d.2.2 = true ↔ ∃ j, 1 ≤ j ∧ j ≤ k ∧ v.getLsbD (76 - j) ≠ v.getLsbD 76)) ∧
    (77 ≤ k → (d.2.2 = true ↔ v ≠ 0))

/-- For every count k, A becomes its pattern times 2^k mod 2^39. For k up to 38 overflow is indicated exactly when bits 38 to 38-k are not all equal, and for a larger k exactly when A was not 0. For k up to 38 with no overflow the two's-complement value is multiplied by 2^k exactly. -/
def Obligations.SingleLeftShiftValueAndOverflow : Prop :=
  ∀ (a : Word) (k : Nat),
    let d := shiftLeftSingle a k
    d.1.toNat = a.toNat * 2 ^ k % 2 ^ 39 ∧
    (k ≤ 38 → (d.2 = true ↔ ∃ j, 1 ≤ j ∧ j ≤ k ∧ a.getLsbD (38 - j) ≠ a.getLsbD 38)) ∧
    (39 ≤ k → (d.2 = true ↔ a ≠ 0)) ∧
    (k ≤ 38 → d.2 = false → d.1.toInt = a.toInt * ((2 ^ k : Nat) : Int))

/-- Each of 00 to 07 gives a next state in which A is apply(f, A, A, n), OVR has its overflow ORed in, pc is one more, and nothing else, no word of the store among it, has changed. -/
def Obligations.GroupZeroWritesAluResultToA : Prop :=
  ∀ (n : Addr) (s : State),
    let r := fun op : AluOp => aluApply op s.acc s.acc (memRead s n)
    let t := fun op : AluOp => { s with acc := (r op).1, ovr := s.ovr || (r op).2, pc := s.pc + 1 }
    exec (.op00 n) s = .next (t .noop) ∧
    exec (.op01 n) s = .next (t .negate) ∧
    exec (.op02 n) s = .next (t .increment) ∧
    exec (.op03 n) s = .next (t .collate) ∧
    exec (.op04 n) s = .next (t .add) ∧
    exec (.op05 n) s = .next (t .subtract) ∧
    exec (.op06 n) s = .next (t .clear) ∧
    exec (.op07 n) s = .next (t .negateAdd)

/-- Each of 10 to 17 gives a next state in which word N holds the old A, A is apply(f, A, old, old) on the old word N, OVR has its overflow ORed in, pc is one more; no other word and no other item of the state has changed. -/
def Obligations.GroupOneExchanges : Prop :=
  ∀ (n : Addr) (s : State), s.store.wf = true →
    let old := memRead s n
    let r := fun op : AluOp => aluApply op s.acc old old
    let f := fun (i : Instr) (op : AluOp) =>
      ∃ t : State, exec i s = .next t ∧ t.acc = (r op).1 ∧ t.ovr = (s.ovr || (r op).2) ∧ t.pc = s.pc + 1 ∧
        storedOnly s t n s.acc ∧ restUnchanged s t
    f (.op10 n) .noop ∧
    f (.op11 n) .negate ∧
    f (.op12 n) .increment ∧
    f (.op13 n) .collate ∧
    f (.op14 n) .add ∧
    f (.op15 n) .subtract ∧
    f (.op16 n) .clear ∧
    f (.op17 n) .negateAdd

/-- Each of 20 to 27 gives a next state in which word N holds apply(f, A, A, n), A is unchanged, OVR has its overflow ORed in, pc is one more; no other word and no other item of the state has changed. -/
def Obligations.GroupTwoStoresAluResult : Prop :=
  ∀ (n : Addr) (s : State), s.store.wf = true →
    let old := memRead s n
    let r := fun op : AluOp => aluApply op s.acc s.acc old
    let f := fun (i : Instr) (op : AluOp) =>
      ∃ t : State, exec i s = .next t ∧ t.acc = s.acc ∧ t.ovr = (s.ovr || (r op).2) ∧ t.pc = s.pc + 1 ∧
        storedOnly s t n (r op).1 ∧ restUnchanged s t
    f (.op20 n) .noop ∧
    f (.op21 n) .negate ∧
    f (.op22 n) .increment ∧
    f (.op23 n) .collate ∧
    f (.op24 n) .add ∧
    f (.op25 n) .subtract ∧
    f (.op26 n) .clear ∧
    f (.op27 n) .negateAdd

/-- Each of 30 to 37 gives a next state in which word N holds apply(f, A, old, old), A is the old word N (0 for N in 0 to 3), OVR has its overflow ORed in, pc is one more; no other word and no other item of the state has changed. -/
def Obligations.GroupThreeReplaces : Prop :=
  ∀ (n : Addr) (s : State), s.store.wf = true →
    let old := memRead s n
    let r := fun op : AluOp => aluApply op s.acc old old
    let f := fun (i : Instr) (op : AluOp) =>
      ∃ t : State, exec i s = .next t ∧ t.acc = old ∧ t.ovr = (s.ovr || (r op).2) ∧ t.pc = s.pc + 1 ∧
        storedOnly s t n (r op).1 ∧ restUnchanged s t
    f (.op30 n) .noop ∧
    f (.op31 n) .negate ∧
    f (.op32 n) .increment ∧
    f (.op33 n) .collate ∧
    f (.op34 n) .add ∧
    f (.op35 n) .subtract ∧
    f (.op36 n) .clear ∧
    f (.op37 n) .negateAdd

/-- A taken transfer (always; A negative; A zero) sets pc to N*2 or N*2+1 and changes nothing else; when that is its own half-word it sets mode Stop and leaves pc (the halt's reason also enters the model's own trace, log entry 3); when not taken pc is one more. No other state changes. -/
def Obligations.ConditionalTransfersGoOrHalt : Prop :=
  ∀ (n : Addr) (s : State),
    let t := fun (taken : Prop) [Decidable taken] (target : HalfAddr) =>
      if taken then
        if target = s.pc then { s with mode := .stop, trace := s.trace ++ [.halted .selfJump] }
        else { s with pc := target }
      else { s with pc := s.pc + 1 }
    let first := BitVec.ofNat 14 (n.toNat * 2)
    let second := BitVec.ofNat 14 (n.toNat * 2 + 1)
    exec (.op40 n) s = .next (t True first) ∧
    exec (.op41 n) s = .next (t (s.acc.toInt < 0) first) ∧
    exec (.op42 n) s = .next (t (s.acc.toInt = 0) first) ∧
    exec (.op44 n) s = .next (t True second) ∧
    exec (.op45 n) s = .next (t (s.acc.toInt < 0) second) ∧
    exec (.op46 n) s = .next (t (s.acc.toInt = 0) second)

/-- With OVR set, 43 and 47 clear it and go to N*2 and N*2+1, their own half-word included, and change nothing else; with OVR clear they only advance pc. -/
def Obligations.OverflowTransfersClearTheFlag : Prop :=
  ∀ (n : Addr) (s : State),
    (s.ovr = true →
      exec (.op43 n) s = .next { s with ovr := false, pc := BitVec.ofNat 14 (n.toNat * 2) } ∧
      exec (.op47 n) s = .next { s with ovr := false, pc := BitVec.ofNat 14 (n.toNat * 2 + 1) }) ∧
    (s.ovr = false →
      exec (.op43 n) s = .next { s with pc := s.pc + 1 } ∧ exec (.op47 n) s = .next { s with pc := s.pc + 1 })

/-- 50 and 54 shift A:AR, 51 and 55 shift A and clear AR, by N & shift_count_mask places; 52 gives the double-length product in A:AR and 53 its high word rounded by the top bit of the low part, AR cleared; only 54 and 55 touch OVR, pc is one more, the store and everything else is unchanged. -/
def Obligations.ShiftsAndMultipliesWriteDoubleLength : Prop :=
  let holds := fun (run : Instr → State → Outcome State Fault Refusal) (p : Config.Params) => ∀ (n : Addr) (s : State),
    let k := (n &&& p.shiftCountMask).toNat
    let right := shiftRightDouble s.acc s.aux k
    let left := shiftLeftDouble s.acc s.aux k
    let single := shiftLeftSingle s.acc k
    let m := aluMultiply s.acc (memRead s n)
    run (.op50 n) s = .next { s with acc := right.1, aux := right.2, pc := s.pc + 1 } ∧
    run (.op51 n) s = .next { s with acc := shiftRightLogical s.acc k, aux := 0, pc := s.pc + 1 } ∧
    run (.op52 n) s = .next { s with acc := m.1, aux := m.2, pc := s.pc + 1 } ∧
    run (.op53 n) s =
      .next { s with acc := wordOfInt (m.1.toInt + (if m.2.getLsbD 37 then 1 else 0)), aux := 0, pc := s.pc + 1 } ∧
    run (.op54 n) s = .next { s with acc := left.1, aux := left.2.1, ovr := s.ovr || left.2.2, pc := s.pc + 1 } ∧
    run (.op55 n) s = .next { s with acc := single.1, aux := 0, ovr := s.ovr || single.2, pc := s.pc + 1 }
  holds exec params ∧ ∀ p : Config.Params, holds (execWith p) p

/-- With a non-zero word N, 56 sets A to the double-length dividend over it, truncated toward zero, clears AR and leaves OVR; with a zero word it sets OVR and leaves A and AR. pc is one more and nothing else changes. -/
def Obligations.DivideInstruction : Prop :=
  ∀ (n : Addr) (s : State),
    (memRead s n ≠ 0 →
      exec (.op56 n) s =
        .next { s with
          acc := wordOfInt (Int.tdiv (doubleLength s.acc s.aux) (memRead s n).toInt), aux := 0, pc := s.pc + 1 }) ∧
    (memRead s n = 0 → exec (.op56 n) s = .next { s with ovr := true, pc := s.pc + 1 })

/-- 57 sets A to the 38-bit unsigned value of AR, with the sign bit 0, whatever its N; AR, OVR, the store and everything but A and pc are unchanged. -/
def Obligations.CopyOfAuxiliaryRegister : Prop :=
  ∀ (n : Addr) (s : State),
    ∃ t : State, exec (.op57 n) s = .next t ∧ t.acc.toInt = (s.aux.toNat : Int) ∧
      t = { s with acc := t.acc, pc := s.pc + 1 }

/-- 60 to 64 set A to the FPU's sum, difference, reverse difference, product and quotient of A and word N, OR the overflow into OVR (a subtraction ORs its negation's and its addition's) and advance pc; AR, the store and everything else is unchanged. It holds for whatever FPU a configuration names. -/
def Obligations.FloatInstructionsUseTheFpu : Prop :=
  let holds := fun (run : Instr → State → Outcome State Fault Refusal) (p : Config.Params) => ∀ (n : Addr) (s : State),
    let u := floatUnit p
    let m := memRead s n
    let t := fun r : Word × Bool => { s with acc := r.1, ovr := s.ovr || r.2, pc := s.pc + 1 }
    let minus := fun x y : Word => ((u.fadd x (u.fneg y).1).1, (u.fneg y).2 || (u.fadd x (u.fneg y).1).2)
    run (.op60 n) s = .next (t (u.fadd s.acc m)) ∧
    run (.op61 n) s = .next (t (minus s.acc m)) ∧
    run (.op62 n) s = .next (t (minus m s.acc)) ∧
    run (.op63 n) s = .next (t (u.fmpy s.acc m)) ∧
    run (.op64 n) s = .next (t (u.fdiv s.acc m))
  holds exec params ∧ ∀ p : Config.Params, holds (execWith p) p

/-- 65 4096 sets A to the FPU's conversion of A; with any other N, A is shifted left N mod 64 places, mod 2^39, with OVR unchanged. pc is one more; AR, the store and everything else is unchanged. -/
def Obligations.FastShiftOrIntegerToFloat : Prop :=
  let holds := fun (run : Instr → State → Outcome State Fault Refusal) (p : Config.Params) => ∀ (n : Addr) (s : State),
    (n.toNat = 4096 →
      run (.op65 n) s =
        .next { s with
          acc := ((floatUnit p).ffix s.acc).1, ovr := s.ovr || ((floatUnit p).ffix s.acc).2, pc := s.pc + 1 }) ∧
    (n.toNat ≠ 4096 →
      ∃ t : State, run (.op65 n) s = .next t ∧ t.acc.toNat = s.acc.toNat * 2 ^ (n.toNat % 64) % 2 ^ 39 ∧
        t = { s with acc := t.acc, pc := s.pc + 1 })
  holds exec params ∧ ∀ p : Config.Params, holds (execWith p) p

/-- Each of the six unimplemented opcodes sets mode Stop and puts out one diagnostic naming the opcode, here the entry it adds to the trace, the model's own choice of a place for the event (log entry 3); pc, A, AR, OVR, the store, the buffers and everything else is unchanged. -/
def Obligations.UnimplementedOpcodesHalt : Prop :=
  ∀ (n : Addr) (s : State),
    let t := fun f : Opcode => { s with mode := .stop, trace := s.trace ++ [.halted (.unimplemented f)] }
    exec (.op66 n) s = .next (t 54) ∧ exec (.op67 n) s = .next (t 55) ∧ exec (.op72 n) s = .next (t 58) ∧
    exec (.op75 n) s = .next (t 61) ∧ exec (.op76 n) s = .next (t 62) ∧ exec (.op77 n) s = .next (t 63)

/-- 70 sets A to the word generator, adds one to the poll counter and advances pc, whatever its N; AR, OVR, the store and everything else is unchanged. -/
def Obligations.WordGeneratorRead : Prop :=
  ∀ (n : Addr) (s : State), exec (.op70 n) s = .next { s with acc := s.wg, poll := s.poll + 1, pc := s.pc + 1 }

/-- With a byte waiting in the selected reader, 71 removes the oldest byte, ORs it, masked by char_mask, into A and advances pc; with the reader empty only busy changes. Nothing else changes in either case. -/
def Obligations.ReadByteOrHold : Prop :=
  let holds := fun (run : Instr → State → Outcome State Fault Refusal) (p : Config.Params) =>
    ∀ (n : Addr) (s : State),
      (∀ (b : Byte) (rest : List Byte), s.readers.get (unitOf p n) = b :: rest →
        run (.op71 n) s =
          .next { s with
            acc := s.acc ||| (b &&& p.charMask).setWidth 39, pc := s.pc + 1,
            readers := s.readers.set (unitOf p n) rest }) ∧
      (s.readers.get (unitOf p n) = [] → run (.op71 n) s = .next { s with busy := some (.reader (unitOf p n)) })
  holds exec params ∧ ∀ p : Config.Params, holds (execWith p) p

/-- 73 writes pc >> 1, zero-extended, to word N and advances pc; no other word and no register changes. -/
def Obligations.LinkStoresOwnAddress : Prop :=
  ∀ (n : Addr) (s : State), s.store.wf = true →
    ∃ t : State, exec (.op73 n) s = .next t ∧ t.acc = s.acc ∧ t.ovr = s.ovr ∧ t.pc = s.pc + 1 ∧
      storedOnly s t n (BitVec.ofNat 39 (s.pc.toNat / 2)) ∧ restUnchanged s t

/-- With room in the selected punch buffer, 74 puts N & char_mask at its end and advances pc; with the buffer full (an over-full one, which no run reaches, counts as full, log entry 12) only busy changes. A, AR, OVR, the store and everything else is unchanged in either case. -/
def Obligations.PunchByteOrHold : Prop :=
  let holds := fun (run : Instr → State → Outcome State Fault Refusal) (p : Config.Params) =>
    ∀ (n : Addr) (s : State),
      ((s.punches.get (unitOf p n)).length < p.ringCapacity →
        run (.op74 n) s =
          .next { s with
            pc := s.pc + 1,
            punches := s.punches.set (unitOf p n)
              (s.punches.get (unitOf p n) ++ [BitVec.ofNat 8 n.toNat &&& p.charMask]) }) ∧
      (p.ringCapacity ≤ (s.punches.get (unitOf p n)).length →
        run (.op74 n) s = .next { s with busy := some (.punch (unitOf p n)) })
  holds exec params ∧ ∀ p : Config.Params, holds (execWith p) p

/-- N[12:11] = 0, 1, 2 select unit 1, 2, 3, and 3 selects the unit the open parameter unit_both names, whichever it is. -/
def Obligations.UnitSelection : Prop :=
  ∀ (p : Config.Params) (n : Addr),
    (n.toNat / 2048 = 0 → unitOf p n = .one) ∧ (n.toNat / 2048 = 1 → unitOf p n = .two) ∧
    (n.toNat / 2048 = 2 → unitOf p n = .three) ∧ (n.toNat / 2048 = 3 → unitOf p n = p.unitBoth)

/-- For the reference, adding zero is the identity on every word, negating zero gives zero, multiplying by zero gives zero, and dividing by a zero mantissa gives the saturation word of the dividend's sign with overflow, whatever the exponent corrections are. For every FPU a configuration can name (R821, which the configuration's type enforces, log entry 13): 60 of a zero word leaves A; 63 with a zero operand gives 0; 64 by a zero word gives the saturation word of A's sign and sets OVR; 60 of FMAX_POS to FMAX_POS keeps it and sets OVR; 61 of a standardised A from itself gives 0 when the negation neither underflows nor overflows; a result of 60, 63, 64 or 65 4096 with an exponent below 0 gives 0 and leaves OVR, one of 512 or more the saturation word of its sign and sets OVR; the unit's standardisation is idempotent. Nothing else but pc changes. -/
def Obligations.FloatZeroSaturationAndThresholdRules : Prop :=
  (∀ (delta : Int) (x y : Word),
    fadd x 0 = (x, false) ∧ fadd 0 x = (x, false) ∧ fneg 0 = (0, false) ∧
    fmpy delta x 0 = (0, false) ∧ fmpy delta 0 x = (0, false) ∧
    (mantissa y = 0 → fdiv delta x y = (if mantissa x < 0 then fmaxNeg else fmaxPos, true))) ∧
  let holds := fun (run : Instr → State → Outcome State Fault Refusal) (p : Config.Params) => ∀ (n : Addr) (s : State),
    let u := floatUnit p
    let m := memRead s n
    let thresholds := fun (i : Instr) (r : FloatResult) =>
      (r.exponent < 0 → run i s = .next { s with acc := 0, pc := s.pc + 1 }) ∧
      (512 ≤ r.exponent →
        run i s = .next { s with acc := if r.mantissa.toInt < 0 then fmaxNeg else fmaxPos, ovr := true, pc := s.pc + 1 })
    (m = 0 →
      run (.op60 n) s = .next { s with pc := s.pc + 1 } ∧
      run (.op64 n) s =
        .next { s with acc := if mantissa s.acc < 0 then fmaxNeg else fmaxPos, ovr := true, pc := s.pc + 1 }) ∧
    (m = 0 ∨ s.acc = 0 → run (.op63 n) s = .next { s with acc := 0, pc := s.pc + 1 }) ∧
    (m = fmaxPos → s.acc = fmaxPos → run (.op60 n) s = .next { s with ovr := true, pc := s.pc + 1 }) ∧
    (m = s.acc → standardised m → 0 ≤ (u.neg m).exponent → (u.neg m).exponent < 512 →
      run (.op61 n) s = .next { s with acc := 0, pc := s.pc + 1 }) ∧
    thresholds (.op60 n) (u.add s.acc m) ∧ thresholds (.op63 n) (u.mpy s.acc m) ∧
    thresholds (.op64 n) (u.div s.acc m) ∧ thresholds (.op65 4096) (u.fix s.acc) ∧
    (∀ w : Word, (u.fstd (u.fstd w).1).1 = (u.fstd w).1)
  holds exec params ∧ ∀ p : Config.Params, holds (execWith p) p

/-- For every word whose negation is neither 0 nor an overflow, standardised or not, the sum of the word and its negation is the zero word with no overflow. -/
def Obligations.FloatPlusItsNegationIsZero : Prop :=
  ∀ x : Word, (fneg x).1 ≠ 0 → (fneg x).2 = false → fadd x (fneg x).1 = (0, false)

/-- For every word, standardising its standardisation gives the same word with no overflow; and so it does for every word that standardise answers, from any cell value and working exponent, rounded or saturated. -/
def Obligations.StandardiseIsIdempotent : Prop :=
  (∀ w : Word, fstd (fstd w).1 = ((fstd w).1, false)) ∧
  (∀ c e : Int, fstd (standardise c e).1 = ((standardise c e).1, false))

/-- For every cell value and working exponent, the standardised word is the zero word or its top two mantissa bits differ, and when overflow is indicated it is the saturation word of the value's sign. -/
def Obligations.StandardiseResultForm : Prop :=
  ∀ c e : Int,
    let r := standardise c e
    (r.1 = 0 ∨ r.1.getLsbD 38 ≠ r.1.getLsbD 37) ∧
    (r.2 = true → r.1 = if c < 0 then fmaxNeg else fmaxPos)

/-- For every non-zero value, the halving loop ends within its bound at the value divided by a power of two and floored, inside the 64-bit cell, the exponent raised by the number of halvings and the sticky bit set exactly when a set bit was lost; a value inside the cell is not halved. Then at most 63 doublings reach a value in the cell whose top two bits differ, with the exponent lowered by the number of doublings. -/
def Obligations.StandardiseLoopsEndInTheCell : Prop :=
  ∀ c e : Int, c ≠ 0 →
    let s := shrinkCell (c.natAbs.log2 + 1) c e false
    let r := normaliseCell 63 s.1 s.2.1
    inCell s.1 = true ∧
    (∃ j : Nat, (inCell c = true → j = 0) ∧ s.1 = c / ((2 ^ j : Nat) : Int) ∧ s.2.1 = e + (j : Int) ∧
      (s.2.2 = true ↔ c % ((2 ^ j : Nat) : Int) ≠ 0)) ∧
    cellBit r.1 63 ≠ cellBit r.1 62 ∧ inCell r.1 = true ∧
    ∃ k : Nat, k ≤ 63 ∧ r.1 = s.1 * ((2 ^ k : Nat) : Int) ∧ r.2 = s.2.1 - (k : Int)

/-- With working exponent 294, the float of an integer in -2^29 to 2^29-1 has exactly the integer's value, M * 2^(E - 285), and there is no overflow. -/
def Obligations.IntegerToFloatKeepsValue : Prop :=
  ∀ a : Word, -536870912 ≤ a.toInt → a.toInt < 536870912 →
    mantissa (ffix 294 a).1 * ((2 ^ exponent (ffix 294 a).1 : Nat) : Int) = a.toInt * ((2 ^ 285 : Nat) : Int) ∧
      (ffix 294 a).2 = false

/-- After every host operation that succeeds busy is None; a rejected operation leaves the whole state, busy included, as it was. -/
def Obligations.HostSuccessClearsBusyRejectionChangesNothing : Prop :=
  ∀ (p : Config.Params) (o : HostOp) (s : State),
    (∀ r : Reply, (hostOp p o s).2 = some r → (hostOp p o s).1.busy = none) ∧
    ((hostOp p o s).2 = none → (hostOp p o s).1 = s)

/-- A host write to an address below 8192 of a well-formed word is MemWrite, with no special case below 4; otherwise it is rejected. A host read answers what the fetch path reads. Both change nothing else but busy. -/
def Obligations.HostMemoryAccess : Prop :=
  ∀ (p : Config.Params) (a : Nat) (x : CodeText) (s : State),
    (∀ w : Word, a < 8192 → x.word = some w →
      hostOp p (.memWrite a x) s = ((memWrite s (BitVec.ofNat 13 a) w).setBusy none, some .done)) ∧
    (¬ a < 8192 ∨ x.word = none → hostOp p (.memWrite a x) s = (s, none)) ∧
    (a < 8192 → hostOp p (.memRead a) s = (s.setBusy none, some (.word (progRead p s (BitVec.ofNat 13 a))))) ∧
    (¬ a < 8192 → hostOp p (.memRead a) s = (s, none))

/-- Unit numbers 1, 2 and 3 name the three readers. With unit 1 to 3, 1 to 32 bytes and room for all of them, the bytes are put in the reader's buffer in order; otherwise, with another unit number, no byte, more than 32 bytes or no room for all of them, none is put and nothing changes. -/
def Obligations.ReaderFillIsAllOrNothing : Prop :=
  unitOfNumber 1 = some .one ∧ unitOfNumber 2 = some .two ∧ unitOfNumber 3 = some .three ∧
  ∀ (p : Config.Params) (k : Nat) (bytes : List Byte) (s : State),
    (∀ u : UnitNo, unitOfNumber k = some u → 1 ≤ bytes.length → bytes.length ≤ 32 →
      (s.readers.get u).length + bytes.length ≤ p.ringCapacity →
      hostOp p (.reader k bytes) s =
        ({ s with readers := s.readers.set u (s.readers.get u ++ bytes), busy := none }, some .done)) ∧
    (¬ (1 ≤ k ∧ k ≤ 3) ∨ bytes.length = 0 ∨ 32 < bytes.length ∨
        (∃ u : UnitNo, unitOfNumber k = some u ∧ p.ringCapacity < (s.readers.get u).length + bytes.length) →
      hostOp p (.reader k bytes) s = (s, none))

/-- `wg` with no argument answers WG and changes nothing but busy. With a well-formed written word WG becomes that word; with a field value in range WG gets that field, the other fields as they were, and the modifier suffix on N1 also sets B; busy becomes None and nothing else changes. A written word or a value out of range is rejected, the state unchanged. That B is left as it was without the suffix, and that N2 has no suffix, is the model's reading (log entry 18). -/
def Obligations.WordGeneratorFieldUpdate : Prop :=
  ∀ (p : Config.Params) (s : State) (v : Nat) (x : CodeText),
    let w := s.wg
    let rejected : State × Option Reply := (s, none)
    let writes := fun (arg : WgArg) (y : Word) => hostOp p (.wg arg) s = ({ s with wg := y, busy := none }, some .done)
    hostOp p (.wg .show) s = ({ s with busy := none }, some (.word w)) ∧
    (∀ y : Word, x.word = some y → writes (.set x) y) ∧
    (x.word = none → hostOp p (.wg (.set x)) s = rejected) ∧
    (v < 64 → ∃ y z : Word, writes (.f1 v) y ∧ writes (.f2 v) z ∧
      (Word.f1 y).toNat = v ∧ Word.n1 y = Word.n1 w ∧ Word.bflag y = Word.bflag w ∧ Word.secondHalf y = Word.secondHalf w ∧
      (Word.f2 z).toNat = v ∧ Word.n2 z = Word.n2 w ∧ Word.bflag z = Word.bflag w ∧ Word.firstHalf z = Word.firstHalf w) ∧
    (¬ v < 64 → hostOp p (.wg (.f1 v)) s = rejected ∧ hostOp p (.wg (.f2 v)) s = rejected) ∧
    (v < 8192 → ∃ y z m : Word, writes (.n1 v false) y ∧ writes (.n2 v) z ∧ writes (.n1 v true) m ∧
      (Word.n1 y).toNat = v ∧ Word.f1 y = Word.f1 w ∧ Word.bflag y = Word.bflag w ∧ Word.secondHalf y = Word.secondHalf w ∧
      (Word.n2 z).toNat = v ∧ Word.f2 z = Word.f2 w ∧ Word.bflag z = Word.bflag w ∧ Word.firstHalf z = Word.firstHalf w ∧
      (Word.n1 m).toNat = v ∧ Word.f1 m = Word.f1 w ∧ Word.bflag m = true ∧ Word.secondHalf m = Word.secondHalf w) ∧
    (¬ v < 8192 → hostOp p (.wg (.n1 v false)) s = rejected ∧ hostOp p (.wg (.n1 v true)) s = rejected ∧
      hostOp p (.wg (.n2 v)) s = rejected)

/-- A 71 on an empty reader sets busy and leaves pc and A; after the host fills that reader, the very next step consumes the first byte, and busy is None and pc advanced. -/
def Obligations.HoldFillThenRead : Prop :=
  let holds := fun (stp : State → Outcome State Fault Refusal) (p : Config.Params) =>
    ∀ (s : State) (n : Addr) (k : Nat) (b : Byte) (rest : List Byte),
      s.live → fetch p s = .op71 n → s.readers.get (unitOf p n) = [] → unitOfNumber k = some (unitOf p n) →
      rest.length < 32 → rest.length < p.ringCapacity →
      ∃ t v : State, stp s = .next t ∧ t.busy = some (.reader (unitOf p n)) ∧ t.pc = s.pc ∧ t.acc = s.acc ∧
        stp (hostOp p (.reader k (b :: rest)) t).1 = .next v ∧ v.busy = none ∧ v.pc = s.pc + 1 ∧
        v.acc = s.acc ||| (b &&& p.charMask).setWidth 39 ∧ v.readers.get (unitOf p n) = rest
  holds step params ∧ ∀ p : Config.Params, holds (stepWith p) p
end

