-- ==== Sys2Proof/Laws/State.lean ====
section
/-! SUPPORT. One lemma per field per update of the state, and the queues of a buffer update, so that no later proof unfolds
a record update. -/

namespace Sys2Proof.Machine

@[simp] theorem State.setAcc_acc (s : State) (v : Word) : (s.setAcc v).acc = v := rfl
@[simp] theorem State.setAcc_aux (s : State) (v : Word) : (s.setAcc v).aux = s.aux := rfl
@[simp] theorem State.setAcc_ovr (s : State) (v : Word) : (s.setAcc v).ovr = s.ovr := rfl
@[simp] theorem State.setAcc_pc (s : State) (v : Word) : (s.setAcc v).pc = s.pc := rfl
@[simp] theorem State.setAcc_mode (s : State) (v : Word) : (s.setAcc v).mode = s.mode := rfl
@[simp] theorem State.setAcc_busy (s : State) (v : Word) : (s.setAcc v).busy = s.busy := rfl
@[simp] theorem State.setAcc_wg (s : State) (v : Word) : (s.setAcc v).wg = s.wg := rfl
@[simp] theorem State.setAcc_poll (s : State) (v : Word) : (s.setAcc v).poll = s.poll := rfl
@[simp] theorem State.setAcc_store (s : State) (v : Word) : (s.setAcc v).store = s.store := rfl
@[simp] theorem State.setAcc_readers (s : State) (v : Word) : (s.setAcc v).readers = s.readers := rfl
@[simp] theorem State.setAcc_punches (s : State) (v : Word) : (s.setAcc v).punches = s.punches := rfl
@[simp] theorem State.setAcc_trace (s : State) (v : Word) : (s.setAcc v).trace = s.trace := rfl

@[simp] theorem State.setAux_acc (s : State) (v : Aux) : (s.setAux v).acc = s.acc := rfl
@[simp] theorem State.setAux_aux (s : State) (v : Aux) : (s.setAux v).aux = v := rfl
@[simp] theorem State.setAux_ovr (s : State) (v : Aux) : (s.setAux v).ovr = s.ovr := rfl
@[simp] theorem State.setAux_pc (s : State) (v : Aux) : (s.setAux v).pc = s.pc := rfl
@[simp] theorem State.setAux_mode (s : State) (v : Aux) : (s.setAux v).mode = s.mode := rfl
@[simp] theorem State.setAux_busy (s : State) (v : Aux) : (s.setAux v).busy = s.busy := rfl
@[simp] theorem State.setAux_wg (s : State) (v : Aux) : (s.setAux v).wg = s.wg := rfl
@[simp] theorem State.setAux_poll (s : State) (v : Aux) : (s.setAux v).poll = s.poll := rfl
@[simp] theorem State.setAux_store (s : State) (v : Aux) : (s.setAux v).store = s.store := rfl
@[simp] theorem State.setAux_readers (s : State) (v : Aux) : (s.setAux v).readers = s.readers := rfl
@[simp] theorem State.setAux_punches (s : State) (v : Aux) : (s.setAux v).punches = s.punches := rfl
@[simp] theorem State.setAux_trace (s : State) (v : Aux) : (s.setAux v).trace = s.trace := rfl

@[simp] theorem State.setOvr_acc (s : State) (v : Bool) : (s.setOvr v).acc = s.acc := rfl
@[simp] theorem State.setOvr_aux (s : State) (v : Bool) : (s.setOvr v).aux = s.aux := rfl
@[simp] theorem State.setOvr_ovr (s : State) (v : Bool) : (s.setOvr v).ovr = v := rfl
@[simp] theorem State.setOvr_pc (s : State) (v : Bool) : (s.setOvr v).pc = s.pc := rfl
@[simp] theorem State.setOvr_mode (s : State) (v : Bool) : (s.setOvr v).mode = s.mode := rfl
@[simp] theorem State.setOvr_busy (s : State) (v : Bool) : (s.setOvr v).busy = s.busy := rfl
@[simp] theorem State.setOvr_wg (s : State) (v : Bool) : (s.setOvr v).wg = s.wg := rfl
@[simp] theorem State.setOvr_poll (s : State) (v : Bool) : (s.setOvr v).poll = s.poll := rfl
@[simp] theorem State.setOvr_store (s : State) (v : Bool) : (s.setOvr v).store = s.store := rfl
@[simp] theorem State.setOvr_readers (s : State) (v : Bool) : (s.setOvr v).readers = s.readers := rfl
@[simp] theorem State.setOvr_punches (s : State) (v : Bool) : (s.setOvr v).punches = s.punches := rfl
@[simp] theorem State.setOvr_trace (s : State) (v : Bool) : (s.setOvr v).trace = s.trace := rfl

@[simp] theorem State.setPc_acc (s : State) (v : HalfAddr) : (s.setPc v).acc = s.acc := rfl
@[simp] theorem State.setPc_aux (s : State) (v : HalfAddr) : (s.setPc v).aux = s.aux := rfl
@[simp] theorem State.setPc_ovr (s : State) (v : HalfAddr) : (s.setPc v).ovr = s.ovr := rfl
@[simp] theorem State.setPc_pc (s : State) (v : HalfAddr) : (s.setPc v).pc = v := rfl
@[simp] theorem State.setPc_mode (s : State) (v : HalfAddr) : (s.setPc v).mode = s.mode := rfl
@[simp] theorem State.setPc_busy (s : State) (v : HalfAddr) : (s.setPc v).busy = s.busy := rfl
@[simp] theorem State.setPc_wg (s : State) (v : HalfAddr) : (s.setPc v).wg = s.wg := rfl
@[simp] theorem State.setPc_poll (s : State) (v : HalfAddr) : (s.setPc v).poll = s.poll := rfl
@[simp] theorem State.setPc_store (s : State) (v : HalfAddr) : (s.setPc v).store = s.store := rfl
@[simp] theorem State.setPc_readers (s : State) (v : HalfAddr) : (s.setPc v).readers = s.readers := rfl
@[simp] theorem State.setPc_punches (s : State) (v : HalfAddr) : (s.setPc v).punches = s.punches := rfl
@[simp] theorem State.setPc_trace (s : State) (v : HalfAddr) : (s.setPc v).trace = s.trace := rfl

@[simp] theorem State.setMode_acc (s : State) (v : Mode) : (s.setMode v).acc = s.acc := rfl
@[simp] theorem State.setMode_aux (s : State) (v : Mode) : (s.setMode v).aux = s.aux := rfl
@[simp] theorem State.setMode_ovr (s : State) (v : Mode) : (s.setMode v).ovr = s.ovr := rfl
@[simp] theorem State.setMode_pc (s : State) (v : Mode) : (s.setMode v).pc = s.pc := rfl
@[simp] theorem State.setMode_mode (s : State) (v : Mode) : (s.setMode v).mode = v := rfl
@[simp] theorem State.setMode_busy (s : State) (v : Mode) : (s.setMode v).busy = s.busy := rfl
@[simp] theorem State.setMode_wg (s : State) (v : Mode) : (s.setMode v).wg = s.wg := rfl
@[simp] theorem State.setMode_poll (s : State) (v : Mode) : (s.setMode v).poll = s.poll := rfl
@[simp] theorem State.setMode_store (s : State) (v : Mode) : (s.setMode v).store = s.store := rfl
@[simp] theorem State.setMode_readers (s : State) (v : Mode) : (s.setMode v).readers = s.readers := rfl
@[simp] theorem State.setMode_punches (s : State) (v : Mode) : (s.setMode v).punches = s.punches := rfl
@[simp] theorem State.setMode_trace (s : State) (v : Mode) : (s.setMode v).trace = s.trace := rfl

@[simp] theorem State.setBusy_acc (s : State) (v : Option Device) : (s.setBusy v).acc = s.acc := rfl
@[simp] theorem State.setBusy_aux (s : State) (v : Option Device) : (s.setBusy v).aux = s.aux := rfl
@[simp] theorem State.setBusy_ovr (s : State) (v : Option Device) : (s.setBusy v).ovr = s.ovr := rfl
@[simp] theorem State.setBusy_pc (s : State) (v : Option Device) : (s.setBusy v).pc = s.pc := rfl
@[simp] theorem State.setBusy_mode (s : State) (v : Option Device) : (s.setBusy v).mode = s.mode := rfl
@[simp] theorem State.setBusy_busy (s : State) (v : Option Device) : (s.setBusy v).busy = v := rfl
@[simp] theorem State.setBusy_wg (s : State) (v : Option Device) : (s.setBusy v).wg = s.wg := rfl
@[simp] theorem State.setBusy_poll (s : State) (v : Option Device) : (s.setBusy v).poll = s.poll := rfl
@[simp] theorem State.setBusy_store (s : State) (v : Option Device) : (s.setBusy v).store = s.store := rfl
@[simp] theorem State.setBusy_readers (s : State) (v : Option Device) : (s.setBusy v).readers = s.readers := rfl
@[simp] theorem State.setBusy_punches (s : State) (v : Option Device) : (s.setBusy v).punches = s.punches := rfl
@[simp] theorem State.setBusy_trace (s : State) (v : Option Device) : (s.setBusy v).trace = s.trace := rfl

@[simp] theorem State.setWg_acc (s : State) (v : Word) : (s.setWg v).acc = s.acc := rfl
@[simp] theorem State.setWg_aux (s : State) (v : Word) : (s.setWg v).aux = s.aux := rfl
@[simp] theorem State.setWg_ovr (s : State) (v : Word) : (s.setWg v).ovr = s.ovr := rfl
@[simp] theorem State.setWg_pc (s : State) (v : Word) : (s.setWg v).pc = s.pc := rfl
@[simp] theorem State.setWg_mode (s : State) (v : Word) : (s.setWg v).mode = s.mode := rfl
@[simp] theorem State.setWg_busy (s : State) (v : Word) : (s.setWg v).busy = s.busy := rfl
@[simp] theorem State.setWg_wg (s : State) (v : Word) : (s.setWg v).wg = v := rfl
@[simp] theorem State.setWg_poll (s : State) (v : Word) : (s.setWg v).poll = s.poll := rfl
@[simp] theorem State.setWg_store (s : State) (v : Word) : (s.setWg v).store = s.store := rfl
@[simp] theorem State.setWg_readers (s : State) (v : Word) : (s.setWg v).readers = s.readers := rfl
@[simp] theorem State.setWg_punches (s : State) (v : Word) : (s.setWg v).punches = s.punches := rfl
@[simp] theorem State.setWg_trace (s : State) (v : Word) : (s.setWg v).trace = s.trace := rfl

@[simp] theorem State.setPoll_acc (s : State) (v : Nat) : (s.setPoll v).acc = s.acc := rfl
@[simp] theorem State.setPoll_aux (s : State) (v : Nat) : (s.setPoll v).aux = s.aux := rfl
@[simp] theorem State.setPoll_ovr (s : State) (v : Nat) : (s.setPoll v).ovr = s.ovr := rfl
@[simp] theorem State.setPoll_pc (s : State) (v : Nat) : (s.setPoll v).pc = s.pc := rfl
@[simp] theorem State.setPoll_mode (s : State) (v : Nat) : (s.setPoll v).mode = s.mode := rfl
@[simp] theorem State.setPoll_busy (s : State) (v : Nat) : (s.setPoll v).busy = s.busy := rfl
@[simp] theorem State.setPoll_wg (s : State) (v : Nat) : (s.setPoll v).wg = s.wg := rfl
@[simp] theorem State.setPoll_poll (s : State) (v : Nat) : (s.setPoll v).poll = v := rfl
@[simp] theorem State.setPoll_store (s : State) (v : Nat) : (s.setPoll v).store = s.store := rfl
@[simp] theorem State.setPoll_readers (s : State) (v : Nat) : (s.setPoll v).readers = s.readers := rfl
@[simp] theorem State.setPoll_punches (s : State) (v : Nat) : (s.setPoll v).punches = s.punches := rfl
@[simp] theorem State.setPoll_trace (s : State) (v : Nat) : (s.setPoll v).trace = s.trace := rfl

@[simp] theorem State.setStore_acc (s : State) (v : Memory) : (s.setStore v).acc = s.acc := rfl
@[simp] theorem State.setStore_aux (s : State) (v : Memory) : (s.setStore v).aux = s.aux := rfl
@[simp] theorem State.setStore_ovr (s : State) (v : Memory) : (s.setStore v).ovr = s.ovr := rfl
@[simp] theorem State.setStore_pc (s : State) (v : Memory) : (s.setStore v).pc = s.pc := rfl
@[simp] theorem State.setStore_mode (s : State) (v : Memory) : (s.setStore v).mode = s.mode := rfl
@[simp] theorem State.setStore_busy (s : State) (v : Memory) : (s.setStore v).busy = s.busy := rfl
@[simp] theorem State.setStore_wg (s : State) (v : Memory) : (s.setStore v).wg = s.wg := rfl
@[simp] theorem State.setStore_poll (s : State) (v : Memory) : (s.setStore v).poll = s.poll := rfl
@[simp] theorem State.setStore_store (s : State) (v : Memory) : (s.setStore v).store = v := rfl
@[simp] theorem State.setStore_readers (s : State) (v : Memory) : (s.setStore v).readers = s.readers := rfl
@[simp] theorem State.setStore_punches (s : State) (v : Memory) : (s.setStore v).punches = s.punches := rfl
@[simp] theorem State.setStore_trace (s : State) (v : Memory) : (s.setStore v).trace = s.trace := rfl

@[simp] theorem State.setReaders_acc (s : State) (v : Buffers) : (s.setReaders v).acc = s.acc := rfl
@[simp] theorem State.setReaders_aux (s : State) (v : Buffers) : (s.setReaders v).aux = s.aux := rfl
@[simp] theorem State.setReaders_ovr (s : State) (v : Buffers) : (s.setReaders v).ovr = s.ovr := rfl
@[simp] theorem State.setReaders_pc (s : State) (v : Buffers) : (s.setReaders v).pc = s.pc := rfl
@[simp] theorem State.setReaders_mode (s : State) (v : Buffers) : (s.setReaders v).mode = s.mode := rfl
@[simp] theorem State.setReaders_busy (s : State) (v : Buffers) : (s.setReaders v).busy = s.busy := rfl
@[simp] theorem State.setReaders_wg (s : State) (v : Buffers) : (s.setReaders v).wg = s.wg := rfl
@[simp] theorem State.setReaders_poll (s : State) (v : Buffers) : (s.setReaders v).poll = s.poll := rfl
@[simp] theorem State.setReaders_store (s : State) (v : Buffers) : (s.setReaders v).store = s.store := rfl
@[simp] theorem State.setReaders_readers (s : State) (v : Buffers) : (s.setReaders v).readers = v := rfl
@[simp] theorem State.setReaders_punches (s : State) (v : Buffers) : (s.setReaders v).punches = s.punches := rfl
@[simp] theorem State.setReaders_trace (s : State) (v : Buffers) : (s.setReaders v).trace = s.trace := rfl

@[simp] theorem State.setPunches_acc (s : State) (v : Buffers) : (s.setPunches v).acc = s.acc := rfl
@[simp] theorem State.setPunches_aux (s : State) (v : Buffers) : (s.setPunches v).aux = s.aux := rfl
@[simp] theorem State.setPunches_ovr (s : State) (v : Buffers) : (s.setPunches v).ovr = s.ovr := rfl
@[simp] theorem State.setPunches_pc (s : State) (v : Buffers) : (s.setPunches v).pc = s.pc := rfl
@[simp] theorem State.setPunches_mode (s : State) (v : Buffers) : (s.setPunches v).mode = s.mode := rfl
@[simp] theorem State.setPunches_busy (s : State) (v : Buffers) : (s.setPunches v).busy = s.busy := rfl
@[simp] theorem State.setPunches_wg (s : State) (v : Buffers) : (s.setPunches v).wg = s.wg := rfl
@[simp] theorem State.setPunches_poll (s : State) (v : Buffers) : (s.setPunches v).poll = s.poll := rfl
@[simp] theorem State.setPunches_store (s : State) (v : Buffers) : (s.setPunches v).store = s.store := rfl
@[simp] theorem State.setPunches_readers (s : State) (v : Buffers) : (s.setPunches v).readers = s.readers := rfl
@[simp] theorem State.setPunches_punches (s : State) (v : Buffers) : (s.setPunches v).punches = v := rfl
@[simp] theorem State.setPunches_trace (s : State) (v : Buffers) : (s.setPunches v).trace = s.trace := rfl

@[simp] theorem State.emit_acc (s : State) (e : TraceEntry) : (s.emit e).acc = s.acc := rfl
@[simp] theorem State.emit_aux (s : State) (e : TraceEntry) : (s.emit e).aux = s.aux := rfl
@[simp] theorem State.emit_ovr (s : State) (e : TraceEntry) : (s.emit e).ovr = s.ovr := rfl
@[simp] theorem State.emit_pc (s : State) (e : TraceEntry) : (s.emit e).pc = s.pc := rfl
@[simp] theorem State.emit_mode (s : State) (e : TraceEntry) : (s.emit e).mode = s.mode := rfl
@[simp] theorem State.emit_busy (s : State) (e : TraceEntry) : (s.emit e).busy = s.busy := rfl
@[simp] theorem State.emit_wg (s : State) (e : TraceEntry) : (s.emit e).wg = s.wg := rfl
@[simp] theorem State.emit_poll (s : State) (e : TraceEntry) : (s.emit e).poll = s.poll := rfl
@[simp] theorem State.emit_store (s : State) (e : TraceEntry) : (s.emit e).store = s.store := rfl
@[simp] theorem State.emit_readers (s : State) (e : TraceEntry) : (s.emit e).readers = s.readers := rfl
@[simp] theorem State.emit_punches (s : State) (e : TraceEntry) : (s.emit e).punches = s.punches := rfl
@[simp] theorem State.emit_trace (s : State) (e : TraceEntry) : (s.emit e).trace = s.trace ++ [e] := rfl

@[simp] theorem Buffers.get_set_same (b : Buffers) (u : UnitNo) (q : List Byte) : (b.set u q).get u = q := by
  cases u <;> rfl

theorem Buffers.get_set_other (b : Buffers) (u v : UnitNo) (q : List Byte) (h : v ≠ u) :
    (b.set u q).get v = b.get v := by
  cases u <;> cases v <;> first | rfl | exact absurd rfl h

end Sys2Proof.Machine
end

