-- ==== Sys2Proof/Laws/Memory.lean ====
section
/-! SUPPORT. The core store: a read after a write, and the canonical form kept by every operation. -/

namespace Sys2Proof.Machine

theorem Memory.consWord_of_eq (a : Nat) (v : Word) (rest : Memory) (h : v = unlistedWord) :
    Memory.consWord a v rest = rest := by simp [Memory.consWord, h]

theorem Memory.consWord_of_ne (a : Nat) (v : Word) (rest : Memory) (h : v ≠ unlistedWord) :
    Memory.consWord a v rest = (a, v) :: rest := by simp [Memory.consWord, h]

theorem Memory.wfFrom_cons (a : Nat) (w : Word) (rest : Memory) (lo : Nat) :
    Memory.wfFrom ((a, w) :: rest) lo = true ↔
      lo ≤ a ∧ a < storeSize ∧ w ≠ unlistedWord ∧ Memory.wfFrom rest (a + 1) = true := by
  simp [Memory.wfFrom, and_assoc]

theorem Memory.wfFrom_weaken (m : Memory) (lo lo' : Nat) (h : m.wfFrom lo = true) (hl : lo' ≤ lo) :
    m.wfFrom lo' = true := by
  cases m with
  | nil => rfl
  | cons p rest =>
    obtain ⟨a, w⟩ := p
    rw [Memory.wfFrom_cons] at h ⊢
    exact ⟨by omega, h.2⟩

theorem Memory.wfFrom_consWord (a : Nat) (v : Word) (rest : Memory) (lo : Nat) (hlo : lo ≤ a) (ha : a < storeSize)
    (h : rest.wfFrom (a + 1) = true) : (Memory.consWord a v rest).wfFrom lo = true := by
  by_cases hv : v = unlistedWord
  · rw [Memory.consWord_of_eq _ _ _ hv]; exact Memory.wfFrom_weaken _ _ _ h (by omega)
  · rw [Memory.consWord_of_ne _ _ _ hv, Memory.wfFrom_cons]; exact ⟨hlo, ha, hv, h⟩

theorem Memory.wfFrom_write (m : Memory) (a : Nat) (v : Word) (lo : Nat) (h : m.wfFrom lo = true) (hlo : lo ≤ a)
    (ha : a < storeSize) : (m.write a v).wfFrom lo = true := by
  induction m generalizing lo with
  | nil => exact Memory.wfFrom_consWord _ _ _ _ hlo ha rfl
  | cons p rest ih =>
    obtain ⟨b, w⟩ := p
    rw [Memory.wfFrom_cons] at h
    obtain ⟨h1, h2, h3, h4⟩ := h
    unfold Memory.write
    split
    · next hlt =>
      exact Memory.wfFrom_consWord _ _ _ _ hlo ha ((Memory.wfFrom_cons _ _ _ _).2 ⟨by omega, h2, h3, h4⟩)
    · split
      · next heq => subst heq; exact Memory.wfFrom_consWord _ _ _ _ hlo ha h4
      · exact (Memory.wfFrom_cons _ _ _ _).2 ⟨h1, h2, h3, ih (b + 1) h4 (by omega)⟩

/-- Writing a word inside the store keeps the canonical form. -/
theorem Memory.wf_write (m : Memory) (a : Nat) (v : Word) (h : m.wf = true) (ha : a < storeSize) :
    (m.write a v).wf = true := Memory.wfFrom_write m a v 0 h (Nat.zero_le a) ha

/-- The store right after reset is in canonical form. -/
theorem reset_store_wf : State.reset.store.wf = true := rfl

theorem Memory.read_below (m : Memory) (lo a : Nat) (h : m.wfFrom lo = true) (ha : a < lo) :
    m.read a = unlistedWord := by
  induction m generalizing lo with
  | nil => rfl
  | cons p rest ih =>
    obtain ⟨b, w⟩ := p
    rw [Memory.wfFrom_cons] at h
    rw [Memory.read, if_neg (by omega)]
    exact ih (b + 1) h.2.2.2 (by omega)

theorem Memory.read_consWord_same (a : Nat) (v : Word) (rest : Memory) (h : rest.wfFrom (a + 1) = true) :
    (Memory.consWord a v rest).read a = v := by
  by_cases hv : v = unlistedWord
  · rw [Memory.consWord_of_eq _ _ _ hv, Memory.read_below _ _ _ h (Nat.lt_succ_self a), hv]
  · rw [Memory.consWord_of_ne _ _ _ hv, Memory.read, if_pos rfl]

theorem Memory.read_consWord_other (a b : Nat) (v : Word) (rest : Memory) (h : b ≠ a) :
    (Memory.consWord a v rest).read b = rest.read b := by
  unfold Memory.consWord
  split
  · rfl
  · rw [Memory.read, if_neg h]

theorem Memory.read_write_same_from (m : Memory) (a : Nat) (v : Word) (lo : Nat) (h : m.wfFrom lo = true) :
    (m.write a v).read a = v := by
  induction m generalizing lo with
  | nil => exact Memory.read_consWord_same a v [] rfl
  | cons p rest ih =>
    obtain ⟨b, w⟩ := p
    rw [Memory.wfFrom_cons] at h
    obtain ⟨h1, h2, h3, h4⟩ := h
    unfold Memory.write
    split
    · next hlt =>
      exact Memory.read_consWord_same _ _ _ ((Memory.wfFrom_cons _ _ _ _).2 ⟨by omega, h2, h3, h4⟩)
    · split
      · next heq => subst heq; exact Memory.read_consWord_same _ _ _ h4
      · next hne => rw [Memory.read, if_neg hne]; exact ih (b + 1) h4

/-- A read after a write to the same place gives the value written. -/
theorem Memory.read_write_same (m : Memory) (a : Nat) (v : Word) (h : m.wf = true) : (m.write a v).read a = v :=
  Memory.read_write_same_from m a v 0 h

/-- A write leaves every other place alone. -/
theorem Memory.read_write_other (m : Memory) (a b : Nat) (v : Word) (h : b ≠ a) : (m.write a v).read b = m.read b := by
  induction m with
  | nil => exact Memory.read_consWord_other _ _ _ _ h
  | cons p rest ih =>
    obtain ⟨c, w⟩ := p
    unfold Memory.write
    split
    · exact Memory.read_consWord_other _ _ _ _ h
    · split
      · next heq =>
        subst heq
        rw [Memory.read_consWord_other _ _ _ _ h, Memory.read, if_neg h]
      · rw [Memory.read, Memory.read, ih]

@[simp] theorem memWrite_acc (s : State) (a : Addr) (v : Word) : (memWrite s a v).acc = s.acc := rfl
@[simp] theorem memWrite_aux (s : State) (a : Addr) (v : Word) : (memWrite s a v).aux = s.aux := rfl
@[simp] theorem memWrite_ovr (s : State) (a : Addr) (v : Word) : (memWrite s a v).ovr = s.ovr := rfl
@[simp] theorem memWrite_pc (s : State) (a : Addr) (v : Word) : (memWrite s a v).pc = s.pc := rfl
@[simp] theorem memWrite_mode (s : State) (a : Addr) (v : Word) : (memWrite s a v).mode = s.mode := rfl
@[simp] theorem memWrite_busy (s : State) (a : Addr) (v : Word) : (memWrite s a v).busy = s.busy := rfl
@[simp] theorem memWrite_wg (s : State) (a : Addr) (v : Word) : (memWrite s a v).wg = s.wg := rfl
@[simp] theorem memWrite_poll (s : State) (a : Addr) (v : Word) : (memWrite s a v).poll = s.poll := rfl
@[simp] theorem memWrite_store (s : State) (a : Addr) (v : Word) :
    (memWrite s a v).store = s.store.write a.toNat v := rfl
@[simp] theorem memWrite_readers (s : State) (a : Addr) (v : Word) : (memWrite s a v).readers = s.readers := rfl
@[simp] theorem memWrite_punches (s : State) (a : Addr) (v : Word) : (memWrite s a v).punches = s.punches := rfl
@[simp] theorem memWrite_trace (s : State) (a : Addr) (v : Word) : (memWrite s a v).trace = s.trace := rfl

/-- The data path depends on the store alone. -/
theorem memRead_congr (s t : State) (h : s.store = t.store) (a : Addr) : memRead s a = memRead t a := by
  simp only [memRead, h]

/-- The fetch path depends on the store alone. -/
theorem progRead_congr (p : Config.Params) (s t : State) (h : s.store = t.store) (a : Addr) :
    progRead p s a = progRead p t a := by
  simp only [progRead, h]

/-- An address is inside the store. -/
theorem addr_lt_storeSize (a : Addr) : a.toNat < storeSize := a.isLt

end Sys2Proof.Machine
end

