-- ==== Sys2Proof/Laws/Ops.lean ====
section
/-! SUPPORT. One lemma for each shared operation, saying once everything it can do, and how the invariant passes through
the updates the operations are built from. -/

namespace Sys2Proof.Machine

/-! ## The shared operations -/

theorem advance_eq (s : State) : advance s = { s with pc := s.pc + 1 } := rfl

theorem orOvr_eq (s : State) (o : Bool) : orOvr s o = { s with ovr := s.ovr || o } := rfl

theorem halt_eq (r : HaltReason) (s : State) :
    halt r s = { s with mode := .stop, trace := s.trace ++ [.halted r] } := rfl

theorem hold_eq (d : Device) (s : State) : hold d s = { s with busy := some d } := rfl

theorem accumulate_eq (op : AluOp) (n : Addr) (s : State) :
    accumulate op n s =
      { s with
        acc := (aluApply op s.acc s.acc (operand s n)).1
        ovr := s.ovr || (aluApply op s.acc s.acc (operand s n)).2
        pc := s.pc + 1 } := rfl

theorem exchange_eq (op : AluOp) (n : Addr) (s : State) :
    exchange op n s =
      { s with
        acc := (aluApply op s.acc (operand s n) (operand s n)).1
        ovr := s.ovr || (aluApply op s.acc (operand s n) (operand s n)).2
        pc := s.pc + 1
        store := s.store.write n.toNat s.acc } := rfl

theorem storeBack_eq (op : AluOp) (n : Addr) (s : State) :
    storeBack op n s =
      { s with
        ovr := s.ovr || (aluApply op s.acc s.acc (operand s n)).2
        pc := s.pc + 1
        store := s.store.write n.toNat (aluApply op s.acc s.acc (operand s n)).1 } := rfl

theorem replace_eq (op : AluOp) (n : Addr) (s : State) :
    replace op n s =
      { s with
        acc := operand s n
        ovr := s.ovr || (aluApply op s.acc (operand s n) (operand s n)).2
        pc := s.pc + 1
        store := s.store.write n.toNat (aluApply op s.acc (operand s n) (operand s n)).1 } := rfl

/-- Everything a transfer can do: fall through, clear OVR and go, halt on itself, or go. -/
theorem transfer_cases (c : TransferCond) (target : HalfAddr) (s : State) :
    (transferTaken c s = false ∧ transfer c target s = advance s) ∨
    (transferTaken c s = true ∧ c = .overflow ∧ transfer c target s = { s with ovr := false, pc := target }) ∨
    (transferTaken c s = true ∧ c ≠ .overflow ∧ target = s.pc ∧ transfer c target s = halt .selfJump s) ∨
    (transferTaken c s = true ∧ c ≠ .overflow ∧ target ≠ s.pc ∧ transfer c target s = { s with pc := target }) := by
  cases ht : transferTaken c s with
  | false => exact .inl ⟨rfl, by simp [transfer, ht]⟩
  | true =>
    refine .inr ?_
    by_cases hc : c = .overflow
    · subst hc; exact .inl ⟨rfl, rfl, by simp [transfer, ht, takeTransfer, State.setOvr, State.setPc]⟩
    · by_cases he : target = s.pc
      · exact .inr (.inl ⟨rfl, hc, he, by simp [transfer, ht, takeTransfer, hc, he, halt, State.setMode, State.emit, State.setPc]⟩)
      · exact .inr (.inr ⟨rfl, hc, he, by simp [transfer, ht, takeTransfer, hc, he, State.setPc]⟩)

theorem setDouble_eq (s : State) (d : Word × Aux) : setDouble s d = { s with acc := d.1, aux := d.2 } := rfl

/-- Everything a division can do. -/
theorem divideLong_cases (n : Addr) (s : State) :
    (divideLong n s = { s with ovr := true, pc := s.pc + 1 } ∧ (aluDivide s.acc s.aux (operand s n)).2 = true) ∨
    (divideLong n s = { s with acc := (aluDivide s.acc s.aux (operand s n)).1, aux := 0, pc := s.pc + 1 } ∧
      (aluDivide s.acc s.aux (operand s n)).2 = false) := by
  cases h : (aluDivide s.acc s.aux (operand s n)).2 with
  | true => exact .inl ⟨by simp [divideLong, h, advance, State.setOvr, State.setPc], rfl⟩
  | false => exact .inr ⟨by simp [divideLong, h, advance, setDouble, State.setAcc, State.setAux, State.setPc], rfl⟩

theorem floatResult_eq (r : Word × Bool) (s : State) :
    floatResult r s = { s with acc := r.1, ovr := s.ovr || r.2, pc := s.pc + 1 } := rfl

/-- Everything a read of a reader can do. -/
theorem readByte_cases (p : Config.Params) (u : UnitNo) (s : State) :
    (s.readers.get u = [] ∧ readByte p u s = { s with busy := some (.reader u) }) ∨
    (∃ b rest, s.readers.get u = b :: rest ∧
      readByte p u s =
        { s with acc := s.acc ||| byteForAcc p b, pc := s.pc + 1, readers := s.readers.set u rest }) := by
  cases h : s.readers.get u with
  | nil => exact .inl ⟨rfl, by simp [readByte, h, queueGet, hold, State.setBusy]⟩
  | cons b rest =>
    exact .inr ⟨b, rest, rfl, by simp [readByte, h, queueGet, advance, State.setReaders, State.setAcc, State.setPc]⟩

/-- Everything a punch can do. -/
theorem punchByte_cases (p : Config.Params) (u : UnitNo) (b : Byte) (s : State) :
    (p.ringCapacity ≤ (s.punches.get u).length ∧ punchByte p u b s = { s with busy := some (.punch u) }) ∨
    ((s.punches.get u).length < p.ringCapacity ∧
      punchByte p u b s = { s with pc := s.pc + 1, punches := s.punches.set u (s.punches.get u ++ [b]) }) := by
  by_cases h : p.ringCapacity ≤ (s.punches.get u).length
  · exact .inl ⟨h, by simp [punchByte, queuePut, queueFull, h, hold, State.setBusy]⟩
  · exact .inr ⟨by omega, by simp [punchByte, queuePut, queueFull, h, advance, State.setPunches, State.setPc]⟩

/-- Everything a write of one word does, seen through the store and both read paths. -/
theorem storedOnly_of_write (s t : State) (n : Addr) (v : Word) (h : s.store.wf = true)
    (ht : t.store = s.store.write n.toNat v) : storedOnly s t n v := by
  have other : ∀ a : Addr, a ≠ n → t.store.read a.toNat = s.store.read a.toNat := fun a ha => by
    rw [ht]; exact Memory.read_write_other _ _ _ _ fun e => ha (BitVec.eq_of_toNat_eq e)
  have same : t.store.read n.toNat = v := by rw [ht]; exact Memory.read_write_same _ _ _ h
  refine ⟨same, fun a ha => by rw [ht]; exact Memory.read_write_other _ _ _ _ ha, fun a => ?_, fun p a => ?_⟩
  · by_cases ha : a.toNat < 4
    · simp [memRead, inOverlay, ha]
    · by_cases hn : a = n
      · subst hn; simp [memRead, inOverlay, ha, same]
      · simp [memRead, inOverlay, ha, hn, other a hn]
  · by_cases ha : a.toNat < 4
    · have h4 : ¬ 4 ≤ a.toNat := by omega
      simp [progRead, progReadThrough, ha, h4]
    · have h4 : 4 ≤ a.toNat := by omega
      by_cases hn : a = n
      · subst hn; simp [progRead, progReadThrough, ha, h4, same]
      · simp [progRead, progReadThrough, ha, hn, other a hn]

theorem standardise_zero (e : Int) : standardise 0 e = (0, false) := by
  unfold standardise
  rw [standardiseResult_zero, finish_zero]

/-- Everything the drain of one punch can do. -/
theorem drainPunch_cases (u : UnitNo) (s : State) :
    (s.punches.get u = [] ∧ drainPunch u s = s) ∨
    (∃ b rest, s.punches.get u = b :: rest ∧
      drainPunch u s = { s with punches := s.punches.set u rest, trace := s.trace ++ [.punched u b] }) := by
  cases h : s.punches.get u with
  | nil => exact .inl ⟨rfl, by simp [drainPunch, h, queueGet]⟩
  | cons b rest => exact .inr ⟨b, rest, rfl, by simp [drainPunch, h, queueGet, State.setPunches, State.emit]⟩

/-- Everything the filling of a reader can do. -/
theorem readerFill_cases (p : Config.Params) (k : Nat) (bytes : List Byte) (s : State) :
    readerFill p k bytes s = none ∨
    (∃ u : UnitNo, unitOfNumber k = some u ∧ 1 ≤ bytes.length ∧ bytes.length ≤ 32 ∧
      (s.readers.get u ++ bytes).length ≤ p.ringCapacity ∧
      readerFill p k bytes s = some (s.setReaders (s.readers.set u (s.readers.get u ++ bytes)))) := by
  unfold readerFill
  cases hu : unitOfNumber k with
  | none => exact .inl rfl
  | some u =>
    by_cases hc : 1 ≤ bytes.length ∧ bytes.length ≤ 32 ∧ (s.readers.get u ++ bytes).length ≤ p.ringCapacity
    · exact .inr ⟨u, rfl, hc.1, hc.2.1, hc.2.2, by simp only [if_pos hc]⟩
    · exact .inl (by simp only [if_neg hc])

/-- Everything a host operation can do: its effect with busy cleared, or nothing. -/
theorem hostOp_cases (p : Config.Params) (o : HostOp) (s : State) :
    (hostEffect p o s = none ∧ hostOp p o s = (s, none)) ∨
    (∃ t r, hostEffect p o s = some (t, r) ∧ hostOp p o s = (t.setBusy none, some r)) := by
  cases h : hostEffect p o s with
  | none => exact .inl ⟨rfl, by simp [hostOp, h]⟩
  | some r => exact .inr ⟨r.1, r.2, rfl, by simp [hostOp, h]⟩

@[simp] theorem runActs_nil (p : Config.Params) (s : State) : runActs p [] s = s := rfl

/-- `terminate` is the last event that happens. -/
theorem runActs_terminate (p : Config.Params) (rest : List Act) (s : State) :
    runActs p (.host .terminate :: rest) s = s.setBusy none := by simp [runActs, act, hostOp, hostEffect]

theorem runActs_cons (p : Config.Params) (a : Act) (rest : List Act) (s : State) (h : a ≠ .host .terminate) :
    runActs p (a :: rest) s = runActs p rest (act p a s) := by simp [runActs, h]

/-! ## The invariant through the updates -/

/-- The invariant depends on the store and the buffers alone. -/
theorem State.Inv.congr {p : Config.Params} {s t : State} (h : s.Inv p) (hs : t.store = s.store) (hr : t.readers = s.readers)
    (hp : t.punches = s.punches) : t.Inv p :=
  ⟨hs ▸ h.store_wf, hr ▸ h.readers_bounded, hp ▸ h.punches_bounded⟩

theorem State.Inv.write {p : Config.Params} {s t : State} (h : s.Inv p) (a : Addr) (v : Word) (hs : t.store = s.store.write a.toNat v)
    (hr : t.readers = s.readers) (hp : t.punches = s.punches) : t.Inv p :=
  ⟨hs ▸ Memory.wf_write _ _ _ h.store_wf (addr_lt_storeSize a), hr ▸ h.readers_bounded, hp ▸ h.punches_bounded⟩

theorem Buffers.bounded.set {p : Config.Params} {b : Buffers} (h : b.bounded p) (u : UnitNo) (q : List Byte)
    (hq : q.length ≤ p.ringCapacity) : (b.set u q).bounded p := by
  intro v
  by_cases hv : v = u
  · subst hv; rw [Buffers.get_set_same]; exact hq
  · rw [Buffers.get_set_other _ _ _ _ hv]; exact h v

end Sys2Proof.Machine
end

