-- ==== Sys2Proof/Laws/Creation.lean ====
section
/-! SUPPORT. The store of given contents is in canonical form and holds exactly those contents. -/

namespace Sys2Proof.Machine

theorem listWords_wfFrom (contents : Nat → Word) (a count : Nat) (h : a + count ≤ storeSize) :
    (listWords contents a count).wfFrom a = true := by
  induction count generalizing a with
  | zero => rfl
  | succ count ih => exact Memory.wfFrom_consWord _ _ _ _ (Nat.le_refl a) (by omega) (ih (a + 1) (by omega))

theorem listWords_read (contents : Nat → Word) (a count b : Nat) (h : a + count ≤ storeSize) (ha : a ≤ b)
    (hb : b < a + count) : (listWords contents a count).read b = contents b := by
  induction count generalizing a with
  | zero => omega
  | succ count ih =>
    by_cases he : b = a
    · subst he
      exact Memory.read_consWord_same _ _ _ (listWords_wfFrom _ _ _ (by omega))
    · exact (Memory.read_consWord_other _ _ _ _ he).trans (ih (a + 1) (by omega) (by omega) (by omega))

/-- The store of given contents is in canonical form. -/
theorem storeOf_wf (contents : Addr → Word) : (storeOf contents).wf = true := listWords_wfFrom _ _ _ (Nat.le_refl _)

/-- The store of given contents holds them. -/
theorem storeOf_read (contents : Addr → Word) (a : Addr) : (storeOf contents).read a.toNat = contents a := by
  unfold storeOf
  rw [listWords_read _ _ _ _ (Nat.le_refl _) (Nat.zero_le _) (by have := addr_lt_storeSize a; omega)]
  simp [maskAddr]

/-- A store of zeros lists nothing. -/
theorem listWords_zero (a count : Nat) : listWords (fun _ => 0) a count = [] := by
  induction count generalizing a with
  | zero => rfl
  | succ count ih => rw [listWords, ih]; rfl

end Sys2Proof.Machine
end

