-- ==== Sys2Proof/Laws/PerInstr.lean ====
section
/-! SUPPORT. The encoding family, one lemma per constructor: the opcode field and the address field of an encoded
instruction are the instruction's own (spec/30_encoding.md R301), and it is well formed. -/

namespace Sys2Proof

theorem opcodeField_of_append (f : Opcode) (n : Addr) : Half.opcode (f ++ n) = f := by
  unfold Half.opcode
  exact BitVec.extractLsb'_append_eq_left

theorem addrField_of_append (f : Opcode) (n : Addr) : Half.addr (f ++ n) = n := by
  unfold Half.addr
  exact BitVec.extractLsb'_append_eq_right

/-- Both fields of an encoded instruction, and its well-formedness. -/
def Laws.EncodedFields.Statement (i : Instr) : Prop :=
  Half.opcode (encode i) = i.opcode ∧ Half.addr (encode i) = i.addr ∧ i.wellFormed = true

theorem Laws.encodedFields (i : Instr) : Laws.EncodedFields.Statement i :=
  ⟨opcodeField_of_append _ _, addrField_of_append _ _, rfl⟩

theorem Laws.EncodedFields.op00 (n : Addr) : Laws.EncodedFields.Statement (.op00 n) := Laws.encodedFields _
theorem Laws.EncodedFields.op01 (n : Addr) : Laws.EncodedFields.Statement (.op01 n) := Laws.encodedFields _
theorem Laws.EncodedFields.op02 (n : Addr) : Laws.EncodedFields.Statement (.op02 n) := Laws.encodedFields _
theorem Laws.EncodedFields.op03 (n : Addr) : Laws.EncodedFields.Statement (.op03 n) := Laws.encodedFields _
theorem Laws.EncodedFields.op04 (n : Addr) : Laws.EncodedFields.Statement (.op04 n) := Laws.encodedFields _
theorem Laws.EncodedFields.op05 (n : Addr) : Laws.EncodedFields.Statement (.op05 n) := Laws.encodedFields _
theorem Laws.EncodedFields.op06 (n : Addr) : Laws.EncodedFields.Statement (.op06 n) := Laws.encodedFields _
theorem Laws.EncodedFields.op07 (n : Addr) : Laws.EncodedFields.Statement (.op07 n) := Laws.encodedFields _
theorem Laws.EncodedFields.op10 (n : Addr) : Laws.EncodedFields.Statement (.op10 n) := Laws.encodedFields _
theorem Laws.EncodedFields.op11 (n : Addr) : Laws.EncodedFields.Statement (.op11 n) := Laws.encodedFields _
theorem Laws.EncodedFields.op12 (n : Addr) : Laws.EncodedFields.Statement (.op12 n) := Laws.encodedFields _
theorem Laws.EncodedFields.op13 (n : Addr) : Laws.EncodedFields.Statement (.op13 n) := Laws.encodedFields _
theorem Laws.EncodedFields.op14 (n : Addr) : Laws.EncodedFields.Statement (.op14 n) := Laws.encodedFields _
theorem Laws.EncodedFields.op15 (n : Addr) : Laws.EncodedFields.Statement (.op15 n) := Laws.encodedFields _
theorem Laws.EncodedFields.op16 (n : Addr) : Laws.EncodedFields.Statement (.op16 n) := Laws.encodedFields _
theorem Laws.EncodedFields.op17 (n : Addr) : Laws.EncodedFields.Statement (.op17 n) := Laws.encodedFields _
theorem Laws.EncodedFields.op20 (n : Addr) : Laws.EncodedFields.Statement (.op20 n) := Laws.encodedFields _
theorem Laws.EncodedFields.op21 (n : Addr) : Laws.EncodedFields.Statement (.op21 n) := Laws.encodedFields _
theorem Laws.EncodedFields.op22 (n : Addr) : Laws.EncodedFields.Statement (.op22 n) := Laws.encodedFields _
theorem Laws.EncodedFields.op23 (n : Addr) : Laws.EncodedFields.Statement (.op23 n) := Laws.encodedFields _
theorem Laws.EncodedFields.op24 (n : Addr) : Laws.EncodedFields.Statement (.op24 n) := Laws.encodedFields _
theorem Laws.EncodedFields.op25 (n : Addr) : Laws.EncodedFields.Statement (.op25 n) := Laws.encodedFields _
theorem Laws.EncodedFields.op26 (n : Addr) : Laws.EncodedFields.Statement (.op26 n) := Laws.encodedFields _
theorem Laws.EncodedFields.op27 (n : Addr) : Laws.EncodedFields.Statement (.op27 n) := Laws.encodedFields _
theorem Laws.EncodedFields.op30 (n : Addr) : Laws.EncodedFields.Statement (.op30 n) := Laws.encodedFields _
theorem Laws.EncodedFields.op31 (n : Addr) : Laws.EncodedFields.Statement (.op31 n) := Laws.encodedFields _
theorem Laws.EncodedFields.op32 (n : Addr) : Laws.EncodedFields.Statement (.op32 n) := Laws.encodedFields _
theorem Laws.EncodedFields.op33 (n : Addr) : Laws.EncodedFields.Statement (.op33 n) := Laws.encodedFields _
theorem Laws.EncodedFields.op34 (n : Addr) : Laws.EncodedFields.Statement (.op34 n) := Laws.encodedFields _
theorem Laws.EncodedFields.op35 (n : Addr) : Laws.EncodedFields.Statement (.op35 n) := Laws.encodedFields _
theorem Laws.EncodedFields.op36 (n : Addr) : Laws.EncodedFields.Statement (.op36 n) := Laws.encodedFields _
theorem Laws.EncodedFields.op37 (n : Addr) : Laws.EncodedFields.Statement (.op37 n) := Laws.encodedFields _
theorem Laws.EncodedFields.op40 (n : Addr) : Laws.EncodedFields.Statement (.op40 n) := Laws.encodedFields _
theorem Laws.EncodedFields.op41 (n : Addr) : Laws.EncodedFields.Statement (.op41 n) := Laws.encodedFields _
theorem Laws.EncodedFields.op42 (n : Addr) : Laws.EncodedFields.Statement (.op42 n) := Laws.encodedFields _
theorem Laws.EncodedFields.op43 (n : Addr) : Laws.EncodedFields.Statement (.op43 n) := Laws.encodedFields _
theorem Laws.EncodedFields.op44 (n : Addr) : Laws.EncodedFields.Statement (.op44 n) := Laws.encodedFields _
theorem Laws.EncodedFields.op45 (n : Addr) : Laws.EncodedFields.Statement (.op45 n) := Laws.encodedFields _
theorem Laws.EncodedFields.op46 (n : Addr) : Laws.EncodedFields.Statement (.op46 n) := Laws.encodedFields _
theorem Laws.EncodedFields.op47 (n : Addr) : Laws.EncodedFields.Statement (.op47 n) := Laws.encodedFields _
theorem Laws.EncodedFields.op50 (n : Addr) : Laws.EncodedFields.Statement (.op50 n) := Laws.encodedFields _
theorem Laws.EncodedFields.op51 (n : Addr) : Laws.EncodedFields.Statement (.op51 n) := Laws.encodedFields _
theorem Laws.EncodedFields.op52 (n : Addr) : Laws.EncodedFields.Statement (.op52 n) := Laws.encodedFields _
theorem Laws.EncodedFields.op53 (n : Addr) : Laws.EncodedFields.Statement (.op53 n) := Laws.encodedFields _
theorem Laws.EncodedFields.op54 (n : Addr) : Laws.EncodedFields.Statement (.op54 n) := Laws.encodedFields _
theorem Laws.EncodedFields.op55 (n : Addr) : Laws.EncodedFields.Statement (.op55 n) := Laws.encodedFields _
theorem Laws.EncodedFields.op56 (n : Addr) : Laws.EncodedFields.Statement (.op56 n) := Laws.encodedFields _
theorem Laws.EncodedFields.op57 (n : Addr) : Laws.EncodedFields.Statement (.op57 n) := Laws.encodedFields _
theorem Laws.EncodedFields.op60 (n : Addr) : Laws.EncodedFields.Statement (.op60 n) := Laws.encodedFields _
theorem Laws.EncodedFields.op61 (n : Addr) : Laws.EncodedFields.Statement (.op61 n) := Laws.encodedFields _
theorem Laws.EncodedFields.op62 (n : Addr) : Laws.EncodedFields.Statement (.op62 n) := Laws.encodedFields _
theorem Laws.EncodedFields.op63 (n : Addr) : Laws.EncodedFields.Statement (.op63 n) := Laws.encodedFields _
theorem Laws.EncodedFields.op64 (n : Addr) : Laws.EncodedFields.Statement (.op64 n) := Laws.encodedFields _
theorem Laws.EncodedFields.op65 (n : Addr) : Laws.EncodedFields.Statement (.op65 n) := Laws.encodedFields _
theorem Laws.EncodedFields.op66 (n : Addr) : Laws.EncodedFields.Statement (.op66 n) := Laws.encodedFields _
theorem Laws.EncodedFields.op67 (n : Addr) : Laws.EncodedFields.Statement (.op67 n) := Laws.encodedFields _
theorem Laws.EncodedFields.op70 (n : Addr) : Laws.EncodedFields.Statement (.op70 n) := Laws.encodedFields _
theorem Laws.EncodedFields.op71 (n : Addr) : Laws.EncodedFields.Statement (.op71 n) := Laws.encodedFields _
theorem Laws.EncodedFields.op72 (n : Addr) : Laws.EncodedFields.Statement (.op72 n) := Laws.encodedFields _
theorem Laws.EncodedFields.op73 (n : Addr) : Laws.EncodedFields.Statement (.op73 n) := Laws.encodedFields _
theorem Laws.EncodedFields.op74 (n : Addr) : Laws.EncodedFields.Statement (.op74 n) := Laws.encodedFields _
theorem Laws.EncodedFields.op75 (n : Addr) : Laws.EncodedFields.Statement (.op75 n) := Laws.encodedFields _
theorem Laws.EncodedFields.op76 (n : Addr) : Laws.EncodedFields.Statement (.op76 n) := Laws.encodedFields _
theorem Laws.EncodedFields.op77 (n : Addr) : Laws.EncodedFields.Statement (.op77 n) := Laws.encodedFields _

end Sys2Proof
end

