-- ==== Sys2Proof/Laws/Decode.lean ====
section
/-! SUPPORT. The halves and the B flag of a packed word, and the word of its own halves (spec/30_encoding.md R300). -/

namespace Sys2Proof

@[simp] theorem firstHalf_packHalves (first : Half) (b : Bool) (second : Half) :
    Word.firstHalf (packHalves first b second) = first := by
  unfold Word.firstHalf packHalves
  rw [BitVec.append_assoc]
  exact BitVec.extractLsb'_append_eq_left

@[simp] theorem secondHalf_packHalves (first : Half) (b : Bool) (second : Half) :
    Word.secondHalf (packHalves first b second) = second := by
  unfold Word.secondHalf packHalves
  exact BitVec.extractLsb'_append_eq_right

@[simp] theorem bflag_packHalves (first : Half) (b : Bool) (second : Half) :
    Word.bflag (packHalves first b second) = b := by
  unfold Word.bflag packHalves
  rw [BitVec.getLsbD_append, BitVec.getLsbD_append]
  simp

end Sys2Proof
end

