-- ==== Sys2Proof/Laws/Fetch.lean ====
section
/-! SUPPORT. A half-instruction placed for the next step is the one the next step runs. -/

namespace Sys2Proof.Machine

theorem wordAddrOf_firstHalfOf (n : Addr) : wordAddrOf (firstHalfOf n) = n := by
  unfold wordAddrOf firstHalfOf
  exact BitVec.extractLsb'_append_eq_left

theorem selectsSecond_firstHalfOf (n : Addr) : selectsSecond (firstHalfOf n) = false := by
  unfold selectsSecond firstHalfOf
  rw [BitVec.getLsbD_append]
  rfl

/-- The program counter the placing leaves lies outside the overlay. -/
theorem fetchablePc_outside (pc : HalfAddr) : 4 ≤ (wordAddrOf (fetchablePc pc)).toNat := by
  unfold fetchablePc
  split
  · rw [wordAddrOf_firstHalfOf]; decide
  · next h => simpa [inOverlay] using h

/-- Outside the overlay the fetch path reads what the store holds. -/
theorem progRead_outside (p : Config.Params) (s : State) (a : Addr) (h : 4 ≤ a.toNat) : progRead p s a = s.store.read a.toNat := by
  unfold progRead progReadThrough
  rw [dif_neg (by omega)]

/-- Both halves of a placed word that the fetch looks at. -/
theorem placeHalf_second (h : Half) (w : Word) :
    Word.secondHalf (placeHalf true h w) = h ∧ Word.bflag (placeHalf true h w) = false := by
  simp [placeHalf]

theorem placeHalf_first (h : Half) (w : Word) : Word.firstHalf (placeHalf false h w) = h := by
  simp [placeHalf]

/-- The engine that `withFetchHalf` leaves is live and fetches exactly the half-instruction given, whatever the
bootstrap table. -/
theorem withFetchHalf_spec (p : Config.Params) (s : State) (h : Half) (hs : s.store.wf = true) :
    (withFetchHalf s h).live ∧ fetchHalf p (withFetchHalf s h) = h := by
  refine ⟨⟨rfl, rfl⟩, ?_⟩
  have hw : currentWord p (withFetchHalf s h) =
      placeHalf (selectsSecond (fetchablePc s.pc)) h (s.store.read (wordAddrOf (fetchablePc s.pc)).toNat) := by
    unfold currentWord
    rw [progRead_outside]
    · exact Memory.read_write_same _ _ _ hs
    · exact fetchablePc_outside s.pc
  have hp : (withFetchHalf s h).pc = fetchablePc s.pc := rfl
  unfold fetchHalf
  rw [hw, hp]
  cases selectsSecond (fetchablePc s.pc) with
  | true =>
    have := placeHalf_second h (s.store.read (wordAddrOf (fetchablePc s.pc)).toNat)
    simp [modifiedWord, this]
  | false => simp [placeHalf_first]

end Sys2Proof.Machine
end

