-- ==== Sys2Proof/Laws/Step.lean ====
section
/-! SUPPORT. `exec` and `step`, whose types the host fixes, are the configured functions under `params`; and everything a
step can do. -/

namespace Sys2Proof.Machine

open Host

theorem exec_eq : exec = execWith params := by
  funext i s
  cases i <;> rfl

theorem step_eq : step = stepWith params := by
  funext s
  unfold step stepWith
  rw [exec_eq]

theorem stepWith_live (p : Config.Params) (s : State) (h : s.live) : stepWith p s = execWith p (fetch p s) s := if_pos h

theorem stepWith_stuck (p : Config.Params) (s : State) (h : ¬ s.live) : stepWith p s = .next s := if_neg h

end Sys2Proof.Machine
end

