-- ==== Sys2Proof/Tests/Slice0.lean ====
section
/-! SUPPORT. The session's own tests: every constructor's decoding from bits written out of the spec's encoding; one step
on a small state, expected values from spec/95_test_vectors.md; ill-formed terms refused; a witness for the hypotheses of
every statement that has some. -/

namespace Sys2Proof.Tests

open Sys2Proof Sys2Proof.Machine Host

/-! ## Decoding: bits F then N, spec/30_encoding.md R301, R330; N = 4101 -/

theorem test_decode_00 : decodeHalf 0b0000001000000000101#19 = .op00 4101 := by decide
theorem test_decode_01 : decodeHalf 0b0000011000000000101#19 = .op01 4101 := by decide
theorem test_decode_02 : decodeHalf 0b0000101000000000101#19 = .op02 4101 := by decide
theorem test_decode_03 : decodeHalf 0b0000111000000000101#19 = .op03 4101 := by decide
theorem test_decode_04 : decodeHalf 0b0001001000000000101#19 = .op04 4101 := by decide
theorem test_decode_05 : decodeHalf 0b0001011000000000101#19 = .op05 4101 := by decide
theorem test_decode_06 : decodeHalf 0b0001101000000000101#19 = .op06 4101 := by decide
theorem test_decode_07 : decodeHalf 0b0001111000000000101#19 = .op07 4101 := by decide
theorem test_decode_10 : decodeHalf 0b0010001000000000101#19 = .op10 4101 := by decide
theorem test_decode_11 : decodeHalf 0b0010011000000000101#19 = .op11 4101 := by decide
theorem test_decode_12 : decodeHalf 0b0010101000000000101#19 = .op12 4101 := by decide
theorem test_decode_13 : decodeHalf 0b0010111000000000101#19 = .op13 4101 := by decide
theorem test_decode_14 : decodeHalf 0b0011001000000000101#19 = .op14 4101 := by decide
theorem test_decode_15 : decodeHalf 0b0011011000000000101#19 = .op15 4101 := by decide
theorem test_decode_16 : decodeHalf 0b0011101000000000101#19 = .op16 4101 := by decide
theorem test_decode_17 : decodeHalf 0b0011111000000000101#19 = .op17 4101 := by decide
theorem test_decode_20 : decodeHalf 0b0100001000000000101#19 = .op20 4101 := by decide
theorem test_decode_21 : decodeHalf 0b0100011000000000101#19 = .op21 4101 := by decide
theorem test_decode_22 : decodeHalf 0b0100101000000000101#19 = .op22 4101 := by decide
theorem test_decode_23 : decodeHalf 0b0100111000000000101#19 = .op23 4101 := by decide
theorem test_decode_24 : decodeHalf 0b0101001000000000101#19 = .op24 4101 := by decide
theorem test_decode_25 : decodeHalf 0b0101011000000000101#19 = .op25 4101 := by decide
theorem test_decode_26 : decodeHalf 0b0101101000000000101#19 = .op26 4101 := by decide
theorem test_decode_27 : decodeHalf 0b0101111000000000101#19 = .op27 4101 := by decide
theorem test_decode_30 : decodeHalf 0b0110001000000000101#19 = .op30 4101 := by decide
theorem test_decode_31 : decodeHalf 0b0110011000000000101#19 = .op31 4101 := by decide
theorem test_decode_32 : decodeHalf 0b0110101000000000101#19 = .op32 4101 := by decide
theorem test_decode_33 : decodeHalf 0b0110111000000000101#19 = .op33 4101 := by decide
theorem test_decode_34 : decodeHalf 0b0111001000000000101#19 = .op34 4101 := by decide
theorem test_decode_35 : decodeHalf 0b0111011000000000101#19 = .op35 4101 := by decide
theorem test_decode_36 : decodeHalf 0b0111101000000000101#19 = .op36 4101 := by decide
theorem test_decode_37 : decodeHalf 0b0111111000000000101#19 = .op37 4101 := by decide
theorem test_decode_40 : decodeHalf 0b1000001000000000101#19 = .op40 4101 := by decide
theorem test_decode_41 : decodeHalf 0b1000011000000000101#19 = .op41 4101 := by decide
theorem test_decode_42 : decodeHalf 0b1000101000000000101#19 = .op42 4101 := by decide
theorem test_decode_43 : decodeHalf 0b1000111000000000101#19 = .op43 4101 := by decide
theorem test_decode_44 : decodeHalf 0b1001001000000000101#19 = .op44 4101 := by decide
theorem test_decode_45 : decodeHalf 0b1001011000000000101#19 = .op45 4101 := by decide
theorem test_decode_46 : decodeHalf 0b1001101000000000101#19 = .op46 4101 := by decide
theorem test_decode_47 : decodeHalf 0b1001111000000000101#19 = .op47 4101 := by decide
theorem test_decode_50 : decodeHalf 0b1010001000000000101#19 = .op50 4101 := by decide
theorem test_decode_51 : decodeHalf 0b1010011000000000101#19 = .op51 4101 := by decide
theorem test_decode_52 : decodeHalf 0b1010101000000000101#19 = .op52 4101 := by decide
theorem test_decode_53 : decodeHalf 0b1010111000000000101#19 = .op53 4101 := by decide
theorem test_decode_54 : decodeHalf 0b1011001000000000101#19 = .op54 4101 := by decide
theorem test_decode_55 : decodeHalf 0b1011011000000000101#19 = .op55 4101 := by decide
theorem test_decode_56 : decodeHalf 0b1011101000000000101#19 = .op56 4101 := by decide
theorem test_decode_57 : decodeHalf 0b1011111000000000101#19 = .op57 4101 := by decide
theorem test_decode_60 : decodeHalf 0b1100001000000000101#19 = .op60 4101 := by decide
theorem test_decode_61 : decodeHalf 0b1100011000000000101#19 = .op61 4101 := by decide
theorem test_decode_62 : decodeHalf 0b1100101000000000101#19 = .op62 4101 := by decide
theorem test_decode_63 : decodeHalf 0b1100111000000000101#19 = .op63 4101 := by decide
theorem test_decode_64 : decodeHalf 0b1101001000000000101#19 = .op64 4101 := by decide
theorem test_decode_65 : decodeHalf 0b1101011000000000101#19 = .op65 4101 := by decide
theorem test_decode_66 : decodeHalf 0b1101101000000000101#19 = .op66 4101 := by decide
theorem test_decode_67 : decodeHalf 0b1101111000000000101#19 = .op67 4101 := by decide
theorem test_decode_70 : decodeHalf 0b1110001000000000101#19 = .op70 4101 := by decide
theorem test_decode_71 : decodeHalf 0b1110011000000000101#19 = .op71 4101 := by decide
theorem test_decode_72 : decodeHalf 0b1110101000000000101#19 = .op72 4101 := by decide
theorem test_decode_73 : decodeHalf 0b1110111000000000101#19 = .op73 4101 := by decide
theorem test_decode_74 : decodeHalf 0b1111001000000000101#19 = .op74 4101 := by decide
theorem test_decode_75 : decodeHalf 0b1111011000000000101#19 = .op75 4101 := by decide
theorem test_decode_76 : decodeHalf 0b1111101000000000101#19 = .op76 4101 := by decide
theorem test_decode_77 : decodeHalf 0b1111111000000000101#19 = .op77 4101 := by decide

/-! ## Words: spec/70_reset_and_hazards.md R1110, spec/95_test_vectors.md P2 -/

theorem test_word_bootstrap1 : encodeWord (.op22 4) true (.op16 3) = 154623655939 := by decide
theorem test_word_p2 : encodeWord (.op00 20) true (.op40 1) = 21757953 := by decide
theorem test_table_word : decodeTableWord 24 0x6a005 = some (.op65 5) := by decide

/-! ## Ill-formed written words are refused, spec/30_encoding.md R340, R341 -/

theorem test_refuse_f1 : (CodeText.code 64 0 false 0 0).word = none := by decide
theorem test_refuse_n1 : (CodeText.code 0 8192 false 0 0).word = none := by decide
theorem test_refuse_f2 : (CodeText.code 0 0 false 64 0).word = none := by decide
theorem test_refuse_n2 : (CodeText.code 0 0 false 0 8192).word = none := by decide
theorem test_refuse_literal_high : (CodeText.literal 274877906944).wellFormed = false := by decide
theorem test_refuse_literal_low : (CodeText.literal (-274877906945)).wellFormed = false := by decide
theorem test_accept_code : (CodeText.code 0o22 4 true 0o16 3).word = some 154623655939 := by decide
theorem test_accept_literal : (CodeText.literal (-274877906944)).word = some 274877906944 := by decide
theorem test_refuse_addr : (AddrText.dot5 8192).pc = none := by decide
theorem test_addr_half : (AddrText.dot5 4).pc = some 9 := by decide

/-! ## One step on a small state -/

/-- A running engine at `pc` with one instruction there, A and AR given, OVR clear. -/
def engine (pc : HalfAddr) (i : Instr) (a : Int) (ar : Nat) : State :=
  let s : State := { State.reset with mode := .run, pc := pc, acc := wordOfInt a, aux := BitVec.ofNat 38 ar }
  let w := if selectsSecond pc then encodeWord (.op00 0) false i else encodeWord i false (.op00 0)
  memWrite s (wordAddrOf pc) w

/-- The same with a word n at address 100, at pc 8. -/
def engineWith (i : Instr) (a : Int) (ar : Nat) (n : Int) : State := memWrite (engine 8 i a ar) 100 (wordOfInt n)

/-- The state after one step of the machine behind the host's interface. -/
def stepped (s : State) : State :=
  match step s with
  | .next t => t
  | .fault _ => s
  | .refused _ => s

/-- A, word 100, OVR and pc after one step. -/
def aluView (s : State) : Int × Int × Bool × Nat :=
  let t := stepped s
  (t.acc.toInt, (memRead t 100).toInt, t.ovr, t.pc.toNat)

/-! ### Groups 0 to 3, spec/95_test_vectors.md L2.2 -/

theorem test_step_00a : aluView (engineWith (.op00 100) (5) 0 (9)) = (5, 9, false, 9) := by decide
theorem test_step_01a : aluView (engineWith (.op01 100) (5) 0 (9)) = (-5, 9, false, 9) := by decide
theorem test_step_01b : aluView (engineWith (.op01 100) (-274877906944) 0 (-274877906944)) = (-274877906944, -274877906944, true, 9) := by decide
theorem test_step_02a : aluView (engineWith (.op02 100) (5) 0 (9)) = (10, 9, false, 9) := by decide
theorem test_step_02b : aluView (engineWith (.op02 100) (0) 0 (274877906943)) = (-274877906944, 274877906943, true, 9) := by decide
theorem test_step_03a : aluView (engineWith (.op03 100) (12) 0 (10)) = (8, 10, false, 9) := by decide
theorem test_step_04a : aluView (engineWith (.op04 100) (5) 0 (9)) = (14, 9, false, 9) := by decide
theorem test_step_04b : aluView (engineWith (.op04 100) (274877906943) 0 (1)) = (-274877906944, 1, true, 9) := by decide
theorem test_step_05a : aluView (engineWith (.op05 100) (5) 0 (9)) = (-4, 9, false, 9) := by decide
theorem test_step_06a : aluView (engineWith (.op06 100) (5) 0 (9)) = (0, 9, false, 9) := by decide
theorem test_step_07a : aluView (engineWith (.op07 100) (5) 0 (9)) = (4, 9, false, 9) := by decide
theorem test_step_10a : aluView (engineWith (.op10 100) (5) 0 (9)) = (9, 5, false, 9) := by decide
theorem test_step_11a : aluView (engineWith (.op11 100) (5) 0 (9)) = (-9, 5, false, 9) := by decide
theorem test_step_11b : aluView (engineWith (.op11 100) (-274877906944) 0 (-274877906944)) = (-274877906944, -274877906944, true, 9) := by decide
theorem test_step_12a : aluView (engineWith (.op12 100) (5) 0 (9)) = (10, 5, false, 9) := by decide
theorem test_step_12b : aluView (engineWith (.op12 100) (0) 0 (274877906943)) = (-274877906944, 0, true, 9) := by decide
theorem test_step_13a : aluView (engineWith (.op13 100) (12) 0 (10)) = (8, 12, false, 9) := by decide
theorem test_step_14a : aluView (engineWith (.op14 100) (5) 0 (9)) = (14, 5, false, 9) := by decide
theorem test_step_14b : aluView (engineWith (.op14 100) (274877906943) 0 (1)) = (-274877906944, 274877906943, true, 9) := by decide
theorem test_step_15a : aluView (engineWith (.op15 100) (5) 0 (9)) = (-4, 5, false, 9) := by decide
theorem test_step_16a : aluView (engineWith (.op16 100) (5) 0 (9)) = (0, 5, false, 9) := by decide
theorem test_step_17a : aluView (engineWith (.op17 100) (5) 0 (9)) = (4, 5, false, 9) := by decide
theorem test_step_20a : aluView (engineWith (.op20 100) (5) 0 (9)) = (5, 5, false, 9) := by decide
theorem test_step_21a : aluView (engineWith (.op21 100) (5) 0 (9)) = (5, -5, false, 9) := by decide
theorem test_step_21b : aluView (engineWith (.op21 100) (-274877906944) 0 (-274877906944)) = (-274877906944, -274877906944, true, 9) := by decide
theorem test_step_22a : aluView (engineWith (.op22 100) (5) 0 (9)) = (5, 10, false, 9) := by decide
theorem test_step_22b : aluView (engineWith (.op22 100) (0) 0 (274877906943)) = (0, -274877906944, true, 9) := by decide
theorem test_step_23a : aluView (engineWith (.op23 100) (12) 0 (10)) = (12, 8, false, 9) := by decide
theorem test_step_24a : aluView (engineWith (.op24 100) (5) 0 (9)) = (5, 14, false, 9) := by decide
theorem test_step_24b : aluView (engineWith (.op24 100) (274877906943) 0 (1)) = (274877906943, -274877906944, true, 9) := by decide
theorem test_step_25a : aluView (engineWith (.op25 100) (5) 0 (9)) = (5, -4, false, 9) := by decide
theorem test_step_26a : aluView (engineWith (.op26 100) (5) 0 (9)) = (5, 0, false, 9) := by decide
theorem test_step_27a : aluView (engineWith (.op27 100) (5) 0 (9)) = (5, 4, false, 9) := by decide
theorem test_step_30a : aluView (engineWith (.op30 100) (5) 0 (9)) = (9, 9, false, 9) := by decide
theorem test_step_31a : aluView (engineWith (.op31 100) (5) 0 (9)) = (9, -9, false, 9) := by decide
theorem test_step_31b : aluView (engineWith (.op31 100) (-274877906944) 0 (-274877906944)) = (-274877906944, -274877906944, true, 9) := by decide
theorem test_step_32a : aluView (engineWith (.op32 100) (5) 0 (9)) = (9, 10, false, 9) := by decide
theorem test_step_32b : aluView (engineWith (.op32 100) (0) 0 (274877906943)) = (274877906943, -274877906944, true, 9) := by decide
theorem test_step_33a : aluView (engineWith (.op33 100) (12) 0 (10)) = (10, 8, false, 9) := by decide
theorem test_step_34a : aluView (engineWith (.op34 100) (5) 0 (9)) = (9, 14, false, 9) := by decide
theorem test_step_34b : aluView (engineWith (.op34 100) (274877906943) 0 (1)) = (1, -274877906944, true, 9) := by decide
theorem test_step_35a : aluView (engineWith (.op35 100) (5) 0 (9)) = (9, -4, false, 9) := by decide
theorem test_step_36a : aluView (engineWith (.op36 100) (5) 0 (9)) = (9, 0, false, 9) := by decide
theorem test_step_37a : aluView (engineWith (.op37 100) (5) 0 (9)) = (9, 4, false, 9) := by decide

/-! ### Group 4, L2.3 -/

/-- pc, mode and OVR after one step, from a given OVR. -/
def transferView (s : State) (ovr : Bool) : Nat × Mode × Bool :=
  let t := stepped (s.setOvr ovr)
  (t.pc.toNat, t.mode, t.ovr)

theorem test_step_40a : transferView (engine 8 (.op40 4) (0) 0) false = (8, .stop, false) := by decide
theorem test_step_40b : transferView (engine 9 (.op40 4) (0) 0) false = (8, .run, false) := by decide
theorem test_step_41a : transferView (engine 8 (.op41 100) (0) 0) false = (9, .run, false) := by decide
theorem test_step_41b : transferView (engine 8 (.op41 4) (-274877906944) 0) false = (8, .stop, false) := by decide
theorem test_step_42a : transferView (engine 8 (.op42 100) (1) 0) false = (9, .run, false) := by decide
theorem test_step_42b : transferView (engine 8 (.op42 4) (0) 0) false = (8, .stop, false) := by decide
theorem test_step_43a : transferView (engine 8 (.op43 100) (0) 0) true = (200, .run, false) := by decide
theorem test_step_43b : transferView (engine 8 (.op43 4) (0) 0) true = (8, .run, false) := by decide
theorem test_step_44a : transferView (engine 8 (.op44 100) (0) 0) false = (201, .run, false) := by decide
theorem test_step_44b : transferView (engine 9 (.op44 4) (0) 0) false = (9, .stop, false) := by decide
theorem test_step_45a : transferView (engine 8 (.op45 100) (-5) 0) false = (201, .run, false) := by decide
theorem test_step_45b : transferView (engine 8 (.op45 100) (5) 0) false = (9, .run, false) := by decide
theorem test_step_46a : transferView (engine 8 (.op46 100) (0) 0) false = (201, .run, false) := by decide
theorem test_step_46b : transferView (engine 8 (.op46 100) (7) 0) false = (9, .run, false) := by decide
theorem test_step_47a : transferView (engine 8 (.op47 100) (0) 0) false = (9, .run, false) := by decide
theorem test_step_47b : transferView (engine 9 (.op47 4) (0) 0) true = (9, .run, false) := by decide

/-! ### Group 5, L2.4 -/

/-- A, AR, OVR and pc after one step. -/
def doubleView (s : State) : Int × Nat × Bool × Nat :=
  let t := stepped s
  (t.acc.toInt, t.aux.toNat, t.ovr, t.pc.toNat)

theorem test_step_50a : doubleView (engineWith (.op50 2) (-8) 3 (0)) = (-2, 0, false, 9) := by decide
theorem test_step_50b : doubleView (engineWith (.op50 1) (5) 0 (0)) = (2, 137438953472, false, 9) := by decide
theorem test_step_51a : doubleView (engineWith (.op51 2) (-8) 3 (0)) = (137438953470, 0, false, 9) := by decide
theorem test_step_51b : doubleView (engineWith (.op51 0) (-8) 5 (0)) = (-8, 0, false, 9) := by decide
theorem test_step_52a : doubleView (engineWith (.op52 100) (-3) 7 (5)) = (-1, 274877906929, false, 9) := by decide
theorem test_step_52b : doubleView (engineWith (.op52 100) (-274877906944) 0 (-274877906944)) = (-274877906944, 0, false, 9) := by decide
theorem test_step_53a : doubleView (engineWith (.op53 100) (524288) 0 (262144)) = (1, 0, false, 9) := by decide
theorem test_step_53b : doubleView (engineWith (.op53 100) (274877906943) 5 (274877906943)) = (274877906942, 0, false, 9) := by decide
theorem test_step_54a : doubleView (engineWith (.op54 1) (3) 137438953472 (0)) = (7, 0, false, 9) := by decide
theorem test_step_54b : doubleView (engineWith (.op54 77) (-1) 0 (0)) = (0, 0, true, 9) := by decide
theorem test_step_55a : doubleView (engineWith (.op55 1) (137438953472) 0 (0)) = (-274877906944, 0, true, 9) := by decide
theorem test_step_55b : doubleView (engineWith (.op55 37) (-2) 0 (0)) = (-274877906944, 0, false, 9) := by decide
theorem test_step_56a : doubleView (engineWith (.op56 100) (-1) 274877906937 (2)) = (-3, 0, false, 9) := by decide
theorem test_step_56b : doubleView (engineWith (.op56 100) (5) 6 (0)) = (5, 6, true, 9) := by decide
theorem test_step_57a : doubleView (engineWith (.op57 0) (9) 274877906929 (0)) = (274877906929, 274877906929, false, 9) := by decide
theorem test_step_57b : doubleView (engineWith (.op57 0) (-1) 0 (0)) = (0, 0, false, 9) := by decide

/-! ### Group 6, L2.6 -/

/-- One step with float words in A and at address 100: A, OVR, mode and pc. -/
def floatView (i : Instr) (a n : Word) : Word × Bool × Mode × Nat :=
  let t := stepped (memWrite ((engine 8 i 0 0).setAcc a) 100 n)
  (t.acc, t.ovr, t.mode, t.pc.toNat)

theorem test_step_60a : floatView (.op60 100) (packFloat (268435456) 257) (packFloat (268435456) 256) = ((packFloat (402653184) 257), false, .run, 9) := by decide
theorem test_step_60b : floatView (.op60 100) (packFloat (536870911) 511) (packFloat (536870911) 511) = ((packFloat (536870911) 511), true, .run, 9) := by decide
theorem test_step_61a : floatView (.op61 100) (packFloat (268435456) 257) (packFloat (268435456) 257) = ((packFloat (0) 0), false, .run, 9) := by decide
theorem test_step_61b : floatView (.op61 100) (packFloat (268435456) 256) (packFloat (268435456) 257) = ((packFloat (-536870912) 255), false, .run, 9) := by decide
theorem test_step_62a : floatView (.op62 100) (packFloat (268435456) 257) (packFloat (268435456) 256) = ((packFloat (-536870912) 255), false, .run, 9) := by decide
theorem test_step_62b : floatView (.op62 100) (packFloat (0) 0) (packFloat (402653184) 258) = ((packFloat (402653184) 258), false, .run, 9) := by decide
theorem test_step_63a : floatView (.op63 100) (packFloat (402653184) 258) (packFloat (402653184) 258) = ((packFloat (301989888) 260), false, .run, 9) := by decide
theorem test_step_63b : floatView (.op63 100) (packFloat (402653184) 258) (packFloat (0) 0) = ((packFloat (0) 0), false, .run, 9) := by decide
theorem test_step_64a : floatView (.op64 100) (packFloat (402653184) 258) (packFloat (-536870912) 257) = ((packFloat (-402653184) 257), false, .run, 9) := by decide
theorem test_step_64b : floatView (.op64 100) (packFloat (-536870912) 256) (packFloat (0) 0) = ((packFloat (-536870912) 511), true, .run, 9) := by decide
theorem test_step_65a : floatView (.op65 4096) (wordOfInt (3)) 0 = ((packFloat (402653184) 258), false, .run, 9) := by decide
theorem test_step_65b : floatView (.op65 4101) (wordOfInt (3)) 0 = ((wordOfInt (96)), false, .run, 9) := by decide
theorem test_step_66a : floatView (.op66 0) (wordOfInt (5)) 0 = ((wordOfInt (5)), false, .stop, 8) := by decide
theorem test_step_67a : floatView (.op67 0) (wordOfInt (5)) 0 = ((wordOfInt (5)), false, .stop, 8) := by decide

/-! ### Group 7, L2.7 -/

theorem test_step_70 :
    (let t := stepped ((engine 8 (.op70 0) 0 0).setWg 12345); (t.acc, t.poll, t.pc)) = (12345, 1, 9) := by decide
theorem test_step_71a :
    (let t := stepped ((engine 8 (.op71 4096) 240 0).setReaders ⟨[], [], [15, 6]⟩); (t.acc, t.readers.unit3, t.busy, t.pc)) =
      (255, [6], none, 9) := by decide
theorem test_step_71b :
    (let t := stepped (engine 8 (.op71 0) 32 0); (t.acc, t.busy, t.pc, t.mode)) =
      (32, some (.reader .one), 8, .run) := by decide
theorem test_step_72 : (let t := stepped (engine 8 (.op72 0) 5 0); (t.acc, t.pc, t.mode)) = (5, 8, .stop) := by decide
theorem test_step_73a : (let t := stepped (engine 21 (.op73 100) 0 0); (memRead t 100, t.pc)) = (10, 22) := by decide
theorem test_step_73b : (let t := stepped (engine 8 (.op73 100) 0 0); (memRead t 100, t.pc)) = (4, 9) := by decide
theorem test_step_74a :
    (let t := stepped (engine 8 (.op74 2053) 0 0); (t.punches.unit2, t.pc)) = ([5], 9) := by decide
theorem test_step_74b :
    (let t := stepped (engine 8 (.op74 511) 0 0); (t.punches.unit1, t.pc)) = ([255], 9) := by decide
theorem test_step_75 : (let t := stepped (engine 8 (.op75 0) 5 0); (t.acc, t.pc, t.mode)) = (5, 8, .stop) := by decide
theorem test_step_76 : (let t := stepped (engine 8 (.op76 0) 5 0); (t.acc, t.pc, t.mode)) = (5, 8, .stop) := by decide
theorem test_step_77 :
    (let t := stepped (engine 8 (.op77 0) 5 0); (t.acc, t.pc, t.mode, t.trace)) =
      (5, 8, .stop, [.halted (.unimplemented 0o77)]) := by decide

/-! ### Fetch and the B-modifier, L2.8 -/

/-- A running engine at pc 9 over a B-modified word 4, with A = 1. -/
def modified (first second : Instr) : State :=
  memWrite { State.reset with mode := .run, pc := 9, acc := 1 } 4 (encodeWord first true second)

theorem test_modifier_address :
    fetch params (memWrite (modified (.op00 50) (.op04 3)) 50 7) = .op04 10 := by decide
theorem test_modifier_carry_into_f2 :
    fetch params (memWrite (modified (.op00 50) (.op04 8191)) 50 1) = .op05 0 := by decide
theorem test_modifier_from_overlay :
    fetch params (memWrite (modified (.op00 2) (.op04 5)) 2 99) = .op04 5 := by decide
theorem test_pc_wraps : (stepped (engine 16383 (.op06 0) 5 0)).pc = 0 := by decide
theorem test_fetch_overlay : fetch params { State.reset with mode := .run } = .op26 4 := by decide

/-! ### The floating-point unit, L2.5 -/

theorem test_fadd_aligned_negative : fadd (packFloat (268435456) 257) (packFloat (-536870912) 0) = ((packFloat (536870911) 256), false) := by decide +kernel
theorem test_fneg_overflow : fneg (packFloat (-536870912) 511) = ((packFloat (536870911) 511), true) := by decide
theorem test_fmpy_underflow : fmpy 0 (packFloat (268435456) 1) (packFloat (268435456) 1) = ((packFloat (0) 0), false) := by decide
theorem test_fdiv_third : fdiv 0 (packFloat (268435456) 257) (packFloat (402653184) 258) = ((packFloat (357913941) 255), false) := by decide
theorem test_ffix_max : ffix 294 (wordOfInt (274877906943)) = ((packFloat (536870911) 294), false) := by decide
theorem test_fstd_small : fstd (packFloat (3) 300) = ((packFloat (402653184) 273), false) := by decide

/-! ### The host, spec/60_exceptions.md -/

theorem test_host_fill_clears_hold :
    (let t := (hostOp params (.reader 1 [5]) (stepped (engine 8 (.op71 0) 0 0))).1; (t.readers.unit1, t.busy)) = ([5], none) := by
  decide
theorem test_host_write_rejected : (hostOp params (.memWrite 8192 (.literal 1)) State.reset).2 = none := by decide
theorem test_host_read_shows_bootstrap :
    (hostOp params (.memRead 2) (memWrite State.reset 2 7)).2 = some (.word 386552766464) := by decide
theorem test_host_run_while_running : (hostOp params (.run none) (State.reset.setMode .run)).2 = none := by decide
theorem test_host_check :
    (hostOp params .check ((State.reset.setMode .run).setPoll 3)) = (State.reset.setMode .run, some (.poll 3)) := by decide
theorem test_host_drain :
    (drainPunches (State.reset.setPunches ⟨[1, 2], [], [3]⟩)).trace = [.punched .one 1, .punched .three 3] := by decide
theorem test_host_terminate : runLoop params [some .terminate, some .cont] State.reset = State.reset := by decide
theorem test_no_step_after_terminate :
    (runActs params [.host .terminate, .step] (engine 8 (.op40 100) 0 0)).pc = 8 := by decide

/-! ### Other configurations, spec/00_scope.md R6 -/

/-- A configuration that differs from the machine's own in every parameter with a number for a value. -/
def other : Config.Params :=
  { params with
    ringCapacity := 1, ringCapacity_pos := by decide, bootstrap := #v[1, 2, 3, 4], bootWg := 7, initialStore := fun a => a.setWidth 39,
    shiftCountMask := 63, unitBoth := .two, charMask := 31, fmulExpDelta := 1 }

theorem test_other_bootstrap : fetch other { State.reset with mode := .run, pc := 7 } = .op00 4 := by decide
theorem test_other_boot_wg : (hostOp other .resetRun State.reset).1.wg = 7 := by decide
theorem test_other_initial_store : (listWords (fun a => other.initialStore (maskAddr a)) 4 2) = [(4, 4), (5, 5)] := by
  decide

/-! ## Witnesses: a concrete state and operands that meet the hypotheses of each statement -/

/-- The store of the witnesses: one word at 4. -/
def live (i : Instr) : State := engine 8 i 7 0

/-- For EveryEventSequenceKeepsInvariantAndEndsAtTerminate. -/
theorem witness_inv : (live (.op20 100)).Inv params :=
  ⟨by decide, by intro u; cases u <;> decide, by intro u; cases u <;> decide⟩
theorem witness_WrittenWordVisibility :
    (live (.op20 100)).store.wf = true ∧ (3 : Addr).toNat < 4 ∧ 4 ≤ (4 : Addr).toNat ∧ (5 : Addr) ≠ 4 := by decide
theorem witness_StepKeepsInvariant : (live (.op20 100)).Inv params ∧ ∃ t : State, step (live (.op20 100)) = .next t :=
  ⟨witness_inv, _, rfl⟩
theorem witness_DecimalLiteralValue :
    (-274877906944 ≤ (274877906943 : Int) ∧ (274877906943 : Int) ≤ 274877906943) ∧
      ¬ (-274877906944 ≤ (274877906944 : Int) ∧ (274877906944 : Int) ≤ 274877906943) := by decide
theorem witness_FetchSelectsHalf :
    (live (.op04 1)).pc.toNat % 2 = 0 ∧ (engine 9 (.op04 1) 0 0).pc.toNat % 2 = 1 ∧
      Word.bflag (progRead params (engine 9 (.op04 1) 0 0) 4) = false ∧
      Word.bflag (progRead params (modified (.op00 50) (.op04 3)) 4) = true := by decide
theorem witness_StepRunsFetchedInstruction :
    (live (.op04 1)).mode = .run ∧ (live (.op04 1)).busy = none ∧ decodeHalf (fetchHalf params (live (.op04 1))) = .op04 1 ∧
      State.reset.mode = .stop := by decide
theorem witness_StateAtCreation : ∃ c : State, c = State.created other := ⟨_, rfl⟩
theorem witness_StuckEngineStaysAsItIs : State.reset.stuck := .inl rfl
theorem witness_ProgramCounterAfterInstruction : ∃ t : State, exec (.op71 0) (live (.op71 0)) = .next t ∧ t.busy ≠ none :=
  ⟨_, rfl, by decide⟩
theorem witness_SelfModifiedSecondHalfIsFetched :
    (live (.op20 4)).live ∧ (live (.op20 4)).store.wf = true ∧ 4 ≤ (4 : Addr).toNat ∧ (live (.op20 4)).pc = firstHalfOf 4 ∧
      fetch params (live (.op20 4)) = .op20 4 ∧ Word.bflag (live (.op20 4)).acc = false := by decide
/-- Word 4 is B-modified, with a given first half, pc at that half. -/
def modifying (first : Instr) : State := (modified first (.op04 3)).setPc 8
/-- The hypotheses that the three clauses share, with N below 4, N at 4 elsewhere and N at the instruction's own word. -/
theorem witness_ModifierIsReadAfterFirstHalf (i : Instr)
    (h : i = .op22 3 ∨ i = .op17 50 ∨ i = .op30 4 ∨ i = .op73 4) :
    (modifying i).live ∧ (modifying i).store.wf = true ∧ (modifying i).pc.toNat % 2 = 0 ∧ fetch params (modifying i) = i ∧
      storesWord i ∧ Word.bflag (currentWord params (modifying i)) = true := by
  obtain rfl | rfl | rfl | rfl := h <;> unfold storesWord <;> decide
theorem witness_ModifierIsReadAfterFirstHalf_clauses :
    (Instr.op22 3).addr.toNat < 4 ∧ 4 ≤ (Instr.op17 50).addr.toNat ∧
      (Instr.op17 50).addr ≠ wordAddrOf (modifying (.op17 50)).pc ∧ 4 ≤ (Instr.op30 4).addr.toNat ∧
      (Instr.op30 4).addr = wordAddrOf (modifying (.op30 4)).pc := by decide
theorem witness_HeldInstructionRetries :
    (live (.op71 0)).live ∧ ∃ t : State, step (live (.op71 0)) = .next t ∧ t.busy ≠ none :=
  ⟨by decide, _, rfl, by decide⟩
theorem witness_OverflowFlagIsSticky :
    ((live (.op43 1)).setOvr true).ovr = true ∧
      ∃ t : State, exec (.op43 1) ((live (.op43 1)).setOvr true) = .next t ∧ t.ovr = false :=
  ⟨rfl, _, rfl, by decide⟩
/-- For the statements whose only hypothesis is that `exec` answers a next state: ModeAndBusyChangeOnlyByHaltAndHold,
RegistersWrittenOnlyByTheirInstructions, StoreWrittenOnlyAtOperandAddress. -/
theorem witness_exec_answers : ∃ t : State, exec (.op12 100) (live (.op12 100)) = .next t := ⟨_, rfl⟩
theorem witness_AluOperationResults : (wordOfInt minInt).toInt = minInt ∧ (1 : Word).toInt ≠ minInt := by decide
theorem witness_MultiplyGivesExactProduct :
    ¬ ((wordOfInt minInt).toInt = minInt ∧ (1 : Word).toInt = minInt) ∧ (wordOfInt minInt).toInt = minInt := by decide
theorem witness_DivideTruncatesTowardZero : (1 : Word).toInt ≠ 0 ∧ (0 : Word).toInt = 0 := by decide
theorem witness_DoubleLeftShiftValueAndOverflow : 76 ≤ 76 ∧ 77 ≤ 77 ∧ doublePattern 1 0 ≠ 0 := by decide
theorem witness_SingleLeftShiftValueAndOverflow :
    38 ≤ 38 ∧ (shiftLeftSingle (-1) 38).2 = false ∧ (shiftLeftSingle 3 2).2 = false ∧ (shiftLeftSingle 1 38).2 = true ∧
      39 ≤ 39 := by decide
/-- For GroupOneExchanges, GroupTwoStoresAluResult and GroupThreeReplaces. -/
theorem witness_storing_groups : (live (.op14 100)).store.wf = true := by decide
theorem witness_OverflowTransfersClearTheFlag :
    ((live (.op43 1)).setOvr true).ovr = true ∧ (live (.op43 1)).ovr = false := by decide
theorem witness_DivideInstruction :
    memRead (engineWith (.op56 100) 0 10 2) 100 ≠ 0 ∧ memRead (engineWith (.op56 100) 0 10 2) 3 = 0 := by decide
theorem witness_FastShiftOrIntegerToFloat : (4096 : Addr).toNat = 4096 ∧ (4097 : Addr).toNat ≠ 4096 := by decide
theorem witness_ReadByteOrHold :
    ((live (.op71 0)).setReaders ⟨[5, 6], [], []⟩).readers.get (unitOf params 0) = 5 :: [6] ∧
      (live (.op71 0)).readers.get (unitOf params 2048) = [] := by decide
theorem witness_LinkStoresOwnAddress : (live (.op73 100)).store.wf = true := by decide
theorem witness_PunchByteOrHold :
    ((live (.op74 5)).punches.get (unitOf params 5)).length < params.ringCapacity ∧
      params.ringCapacity ≤
        (((live (.op74 5)).setPunches ⟨List.replicate ringCapacity 0, [], []⟩).punches.get (unitOf params 5)).length :=
  ⟨by decide, by rw [show unitOf params 5 = .one from by decide]; simp [Buffers.get, State.setPunches, params]⟩
theorem witness_UnitSelection :
    (2047 : Addr).toNat / 2048 = 0 ∧ (2048 : Addr).toNat / 2048 = 1 ∧ (4096 : Addr).toNat / 2048 = 2 ∧
      (8191 : Addr).toNat / 2048 = 3 := by decide
/-- A state with a float word in A and one at address 100. -/
def floats (a n : Word) : State := memWrite ((engine 8 (.op60 100) 0 0).setAcc a) 100 n
theorem witness_FloatZeroSaturationAndThresholdRules :
    mantissa (packFloat 0 5) = 0 ∧ memRead (floats 7 0) 100 = 0 ∧ (floats 0 7).acc = 0 ∧
      memRead (floats fmaxPos fmaxPos) 100 = fmaxPos ∧ (floats fmaxPos fmaxPos).acc = fmaxPos := by decide
/-- 0.5 at exponent 1 has a negation in range; at exponent 0 its negation underflows. -/
theorem witness_FloatZeroSaturationAndThresholdRules_negation :
    standardised (packFloat 268435456 1) ∧ ((floatUnit params).neg (packFloat 268435456 1)).exponent = 0 ∧
      ((floatUnit params).neg (packFloat 268435456 0)).exponent = -1 := by
  unfold standardised; decide
theorem witness_FloatZeroSaturationAndThresholdRules_thresholds :
    ((floatUnit params).add (packFloat 268435456 0) (packFloat (-268435457) 0)).exponent < 0 ∧
      512 ≤ ((floatUnit params).add fmaxPos fmaxPos).exponent ∧
      ((floatUnit params).mpy (packFloat 268435456 1) (packFloat 268435456 1)).exponent < 0 ∧
      512 ≤ ((floatUnit params).mpy fmaxPos fmaxPos).exponent ∧
      ((floatUnit params).div (packFloat 268435456 0) fmaxPos).exponent < 0 ∧
      512 ≤ ((floatUnit params).div fmaxPos 0).exponent ∧
      ((floatUnit { params with fixFloatExp := -1 }).fix 1).exponent < 0 ∧
      512 ≤ ((floatUnit { params with fixFloatExp := 600 }).fix 1).exponent := by decide
theorem witness_FloatPlusItsNegationIsZero :
    (fneg (packFloat 268435456 257)).1 ≠ 0 ∧ (fneg (packFloat 268435456 257)).2 = false := by decide
theorem witness_StandardiseResultForm : (standardise (-17179869184) 600).2 = true := by decide
theorem witness_StandardiseLoopsEndInTheCell : (-1 : Int) ≠ 0 ∧ inCell (-1) = true ∧ inCell 9223372036854775808 = false := by
  decide
theorem witness_IntegerToFloatKeepsValue :
    -536870912 ≤ (wordOfInt (-536870912)).toInt ∧ (wordOfInt (-536870912)).toInt < 536870912 := by decide
theorem witness_HostSuccessClearsBusyRejectionChangesNothing :
    (hostOp params .cont State.reset).2 = some .done ∧ (hostOp params .malformed State.reset).2 = none := by decide
theorem witness_HostMemoryAccess :
    8191 < 8192 ∧ (CodeText.literal 5).word = some 5 ∧ ¬ 8192 < 8192 ∧ (CodeText.code 64 0 false 0 0).word = none := by decide
theorem witness_ReaderFillIsAllOrNothing :
    unitOfNumber 3 = some .three ∧ 1 ≤ [(5 : Byte)].length ∧ [(5 : Byte)].length ≤ 32 ∧
      (State.reset.readers.get .three).length + [(5 : Byte)].length ≤ params.ringCapacity ∧ ¬ (1 ≤ 4 ∧ 4 ≤ 3) ∧
      ([] : List Byte).length = 0 ∧ 32 < (List.replicate 33 (0 : Byte)).length := by decide
/-- The buffer of reader 2 is full: there is no room for one more byte. -/
theorem witness_ReaderFillIsAllOrNothing_no_room :
    unitOfNumber 2 = some .two ∧
      params.ringCapacity <
        ((State.reset.setReaders ⟨[], List.replicate params.ringCapacity 0, []⟩).readers.get .two).length +
          [(5 : Byte)].length :=
  ⟨rfl, by simp [Buffers.get, State.setReaders]⟩
/-- The same at the boundary under a capacity of one byte: one byte is taken, two are not. -/
theorem witness_ReaderFillIsAllOrNothing_boundary :
    (hostOp other (.reader 2 [5]) State.reset).2 = some .done ∧ (hostOp other (.reader 2 [5, 6]) State.reset).2 = none := by
  decide
theorem witness_WordGeneratorFieldUpdate :
    63 < 64 ∧ ¬ 64 < 64 ∧ 8191 < 8192 ∧ ¬ 8192 < 8192 ∧ (CodeText.literal 5).word = some 5 ∧
      (CodeText.literal 274877906944).word = none := by decide
theorem witness_HoldFillThenRead :
    (live (.op71 0)).live ∧ fetch params (live (.op71 0)) = .op71 0 ∧ (live (.op71 0)).readers.get (unitOf params 0) = [] ∧
      unitOfNumber 1 = some (unitOf params 0) ∧ ([] : List Byte).length < 32 ∧ ([] : List Byte).length < params.ringCapacity := by
  decide

end Sys2Proof.Tests
end

section
/-! # What one instruction can do

`Effect` says once, for all 64 instructions, what an instruction does to the state; `execWith_effect` ties it to the
model. It leaves the values of the computed words open, so it is the place to read off what an instruction leaves
unchanged; the statements about single instructions go through the equations of Laws/Ops.lean. -/

namespace Sys2Proof.Machine

open Host

/-- The instruction is one of the two transfers on overflow, 43 and 47 (R705, R709). -/
def overflowTransfer (i : Instr) : Prop := i.opcode = 0o43 ∨ i.opcode = 0o47

/-- Where a transfer goes when it is taken: N.0 for the variants 0 to 3, N.5 for 4 to 7 (R700). -/
def transferTarget (i : Instr) : HalfAddr := if i.opcode.getLsbD 2 then secondHalfOf i.addr else firstHalfOf i.addr

/-- The next states instruction `i` can give from `s` under configuration `p`, by the form of the instruction. -/
inductive Effect (p : Config.Params) (i : Instr) (s : State) : State → Prop
  /-- groups 0 and 6 (R500, R850) -/
  | compute (a : Word) (o : Bool) (form : Opcode.group i.opcode = 0 ∨ Opcode.group i.opcode = 6) :
    Effect p i s { s with acc := a, ovr := s.ovr || o, pc := s.pc + 1 }
  /-- groups 1 to 3 (R550, R600, R650), and 73 (R904) -/
  | store (v a : Word) (o : Bool) (form : storesWord i) :
    Effect p i s
      { s with acc := a, ovr := s.ovr || o, pc := s.pc + 1, store := s.store.write i.addr.toNat v }
  /-- a transfer that is not taken (R700) -/
  | fallThrough (form : Opcode.group i.opcode = 4) : Effect p i s { s with pc := s.pc + 1 }
  /-- a taken transfer on overflow, to its own half-word or another (R705, R709) -/
  | overflowJump (form : Opcode.group i.opcode = 4) (overflow : overflowTransfer i) :
    Effect p i s { s with ovr := false, pc := transferTarget i }
  /-- any other transfer, taken to its own half-word (R701) -/
  | selfJump (form : Opcode.group i.opcode = 4) (plain : ¬ overflowTransfer i) (self : transferTarget i = s.pc) :
    Effect p i s (halt .selfJump s)
  /-- any other transfer, taken to another half-word (R700) -/
  | jump (form : Opcode.group i.opcode = 4) (plain : ¬ overflowTransfer i) (away : transferTarget i ≠ s.pc) :
    Effect p i s { s with pc := transferTarget i }
  /-- group 5 (R750) -/
  | double (a : Word) (r : Aux) (o : Bool) (form : Opcode.group i.opcode = 5) :
    Effect p i s { s with acc := a, aux := r, ovr := s.ovr || o, pc := s.pc + 1 }
  /-- 70 (R900) -/
  | readGenerator (form : i.opcode = 0o70) :
    Effect p i s { s with acc := s.wg, poll := s.poll + 1, pc := s.pc + 1 }
  /-- 71 on an empty reader (R902) -/
  | readHold (form : i.opcode = 0o71) (empty : s.readers.get (unitOf p i.addr) = []) :
    Effect p i s { s with busy := some (.reader (unitOf p i.addr)) }
  /-- 71 with a byte waiting (R902) -/
  | readByte (b : Byte) (rest : List Byte) (form : i.opcode = 0o71)
    (waiting : s.readers.get (unitOf p i.addr) = b :: rest) :
    Effect p i s
      { s with
        acc := s.acc ||| byteForAcc p b
        pc := s.pc + 1
        readers := s.readers.set (unitOf p i.addr) rest }
  /-- 74 on a full punch (R905) -/
  | punchHold (form : i.opcode = 0o74) (full : p.ringCapacity ≤ (s.punches.get (unitOf p i.addr)).length) :
    Effect p i s { s with busy := some (.punch (unitOf p i.addr)) }
  /-- 74 with room for the byte (R905) -/
  | punchByte (b : Byte) (form : i.opcode = 0o74)
    (room : (s.punches.get (unitOf p i.addr)).length < p.ringCapacity) :
    Effect p i s
      { s with
        pc := s.pc + 1
        punches := s.punches.set (unitOf p i.addr) (s.punches.get (unitOf p i.addr) ++ [b]) }
  /-- the six unimplemented opcodes (R1006) -/
  | unimplemented (form : unimplementedOp i) : Effect p i s (halt (.unimplemented i.opcode) s)

/-! ## The effect of each shared operation -/

section
variable {p : Config.Params} {i : Instr} {s : State}

theorem accumulate_effect (op : AluOp) (n : Addr) (form : Opcode.group i.opcode = 0) :
    Effect p i s (accumulate op n s) := .compute _ _ (.inl form)

theorem exchange_effect (op : AluOp) (form : storesWord i) : Effect p i s (exchange op i.addr s) :=
  .store _ _ _ form

theorem storeBack_effect (op : AluOp) (form : storesWord i) : Effect p i s (storeBack op i.addr s) :=
  .store _ s.acc _ form

theorem replace_effect (op : AluOp) (form : storesWord i) : Effect p i s (replace op i.addr s) :=
  .store _ _ _ form

theorem storeLink_effect (form : i.opcode = 0o73) : Effect p i s (storeLink i.addr s) := by
  have h := Effect.store (p := p) (s := s) (linkWord s.pc) s.acc false (.inr (.inr (.inr form)))
  rwa [Bool.or_false] at h

theorem transfer_effect (c : TransferCond) (target : HalfAddr) (form : Opcode.group i.opcode = 4)
    (cond : c = .overflow ↔ overflowTransfer i) (goal : transferTarget i = target) :
    Effect p i s (transfer c target s) := by
  subst goal
  obtain ⟨-, h⟩ | ⟨-, hc, h⟩ | ⟨-, hc, self, h⟩ | ⟨-, hc, away, h⟩ := transfer_cases c (transferTarget i) s
  · exact h ▸ .fallThrough form
  · exact h ▸ .overflowJump form (cond.1 hc)
  · exact h ▸ .selfJump form (mt cond.2 hc) self
  · exact h ▸ .jump form (mt cond.2 hc) away

/-- Group 5 where no overflow is defined: OVR is kept. -/
theorem setDouble_effect (d : Word × Aux) (form : Opcode.group i.opcode = 5) :
    Effect p i s (advance (setDouble s d)) := by
  have h := Effect.double (p := p) (s := s) d.1 d.2 false form
  rwa [Bool.or_false] at h

theorem divideLong_effect (n : Addr) (form : Opcode.group i.opcode = 5) : Effect p i s (divideLong n s) := by
  obtain ⟨h, -⟩ | ⟨h, -⟩ := divideLong_cases n s
  · have h' := Effect.double (p := p) (s := s) s.acc s.aux true form
    rw [Bool.or_true] at h'
    exact h ▸ h'
  · exact h ▸ setDouble_effect (_, 0) form

theorem floatResult_effect (r : Word × Bool) (form : Opcode.group i.opcode = 6) : Effect p i s (floatResult r s) :=
  .compute _ _ (.inr form)

theorem floatOrShift_effect (n : Addr) (form : Opcode.group i.opcode = 6) : Effect p i s (floatOrShift p n s) := by
  unfold floatOrShift
  split
  · exact floatResult_effect _ form
  · have h := Effect.compute (p := p) (s := s) (shiftLeftFast s.acc n) false (.inr form)
    rwa [Bool.or_false] at h

theorem readByte_effect (form : i.opcode = 0o71) : Effect p i s (Machine.readByte p (unitOf p i.addr) s) := by
  obtain ⟨empty, h⟩ | ⟨b, rest, waiting, h⟩ := readByte_cases p (unitOf p i.addr) s
  · exact h ▸ .readHold form empty
  · exact h ▸ .readByte b rest form waiting

theorem punchByte_effect (b : Byte) (form : i.opcode = 0o74) :
    Effect p i s (Machine.punchByte p (unitOf p i.addr) b s) := by
  obtain ⟨full, h⟩ | ⟨room, h⟩ := punchByte_cases p (unitOf p i.addr) b s
  · exact h ▸ .punchHold form full
  · exact h ▸ .punchByte b form room

end

/-! ## The effect of every instruction -/

/-- Every instruction gives a next state, and one that its form allows. -/
theorem execWith_effect (p : Config.Params) (i : Instr) (s : State) :
    ∃ t : State, execWith p i s = .next t ∧ Effect p i s t := by
  cases i with
  | op00 n | op01 n | op02 n | op03 n | op04 n | op05 n | op06 n | op07 n =>
    exact ⟨_, rfl, accumulate_effect _ n (by simp [Opcode.group, Instr.opcode])⟩
  | op10 n | op11 n | op12 n | op13 n | op14 n | op15 n | op16 n | op17 n =>
    exact ⟨_, rfl, exchange_effect _ (.inl (by simp [Opcode.group, Instr.opcode]))⟩
  | op20 n | op21 n | op22 n | op23 n | op24 n | op25 n | op26 n | op27 n =>
    exact ⟨_, rfl, storeBack_effect _ (.inr (.inl (by simp [Opcode.group, Instr.opcode])))⟩
  | op30 n | op31 n | op32 n | op33 n | op34 n | op35 n | op36 n | op37 n =>
    exact ⟨_, rfl, replace_effect _ (.inr (.inr (.inl (by simp [Opcode.group, Instr.opcode]))))⟩
  | op40 n | op41 n | op42 n | op43 n | op44 n | op45 n | op46 n | op47 n =>
    exact ⟨_, rfl, transfer_effect _ _ (by simp [Opcode.group, Instr.opcode]) (by simp [overflowTransfer, Instr.opcode])
      (by simp [transferTarget, Instr.opcode, Instr.addr])⟩
  | op50 n | op51 n | op52 n | op53 n => exact ⟨_, rfl, setDouble_effect _ (by simp [Opcode.group, Instr.opcode])⟩
  | op54 n | op55 n => exact ⟨_, rfl, .double _ _ _ (by simp [Opcode.group, Instr.opcode])⟩
  | op56 n => exact ⟨_, rfl, divideLong_effect n (by simp [Opcode.group, Instr.opcode])⟩
  | op57 n => exact ⟨_, rfl, setDouble_effect (wordOfAux s.aux, s.aux) (by simp [Opcode.group, Instr.opcode])⟩
  | op60 n | op61 n | op62 n | op63 n | op64 n =>
    exact ⟨_, rfl, floatResult_effect _ (by simp [Opcode.group, Instr.opcode])⟩
  | op65 n => exact ⟨_, rfl, floatOrShift_effect n (by simp [Opcode.group, Instr.opcode])⟩
  | op66 n | op67 n | op72 n | op75 n | op76 n | op77 n =>
    exact ⟨_, rfl, .unimplemented (by simp [unimplementedOp, Instr.opcode])⟩
  | op70 n => exact ⟨_, rfl, .readGenerator rfl⟩
  | op71 n => exact ⟨_, rfl, readByte_effect rfl⟩
  | op73 n => exact ⟨_, rfl, storeLink_effect rfl⟩
  | op74 n => exact ⟨_, rfl, punchByte_effect _ rfl⟩

theorem effect_of_execWith {p : Config.Params} {i : Instr} {s t : State} (h : execWith p i s = .next t) :
    Effect p i s t := by
  obtain ⟨u, hu, he⟩ := execWith_effect p i s
  cases hu.symm.trans h
  exact he

theorem effect_of_exec {i : Instr} {s t : State} (h : exec i s = .next t) : Effect params i s t :=
  effect_of_execWith (exec_eq ▸ h)

/-- Everything a step can do: run the fetched instruction when the engine is live, and nothing otherwise. -/
theorem stepWith_cases {p : Config.Params} {s t : State} (h : stepWith p s = .next t) :
    (s.live ∧ Effect p (fetch p s) s t) ∨ (¬ s.live ∧ t = s) := by
  by_cases hl : s.live
  · exact .inl ⟨hl, effect_of_execWith (stepWith_live p s hl ▸ h)⟩
  · rw [stepWith_stuck p s hl] at h
    cases h
    exact .inr ⟨hl, rfl⟩

/-- Every step gives a next state, the one `engineStep` names. -/
theorem stepWith_eq_engineStep (p : Config.Params) (s : State) : stepWith p s = .next (engineStep p s) := by
  have h : ∃ t : State, stepWith p s = .next t := by
    by_cases hl : s.live
    · obtain ⟨t, ht, -⟩ := execWith_effect p (fetch p s) s
      exact ⟨t, (stepWith_live p s hl).trans ht⟩
    · exact ⟨s, stepWith_stuck p s hl⟩
  obtain ⟨t, ht⟩ := h
  simp [engineStep, ht]

end Sys2Proof.Machine
end

section
/-! # The invariant through every event (spec/10_state.md R110, spec/20_memory.md R204) -/

namespace Sys2Proof.Machine

open Host

/-! ## The engine -/

theorem Effect.keeps_inv {p : Config.Params} {i : Instr} {s t : State} (e : Effect p i s t) (hs : s.Inv p) :
    t.Inv p := by
  cases e with
  | store v => exact hs.write i.addr v rfl rfl rfl
  | readByte b rest _ waiting =>
    have hlen := hs.readers_bounded (unitOf p i.addr)
    rw [waiting, List.length_cons] at hlen
    exact ⟨hs.store_wf, hs.readers_bounded.set _ _ (by omega), hs.punches_bounded⟩
  | punchByte b _ room =>
    exact ⟨hs.store_wf, hs.readers_bounded, hs.punches_bounded.set _ _ (by simpa using room)⟩
  | compute | double | fallThrough | overflowJump | selfJump | jump | readGenerator | readHold | punchHold
  | unimplemented => exact hs.congr rfl rfl rfl

theorem stepWith_keeps_inv {p : Config.Params} {s t : State} (hs : s.Inv p) (h : stepWith p s = .next t) : t.Inv p := by
  obtain ⟨-, e⟩ | ⟨-, rfl⟩ := stepWith_cases h
  · exact e.keeps_inv hs
  · exact hs

/-! ## The host -/

section
variable {p : Config.Params} {s t : State}

theorem closeUnit_keeps_inv (d : Device) (hs : s.Inv p) : (closeUnit d s).Inv p := by
  cases d with
  | reader u => exact ⟨hs.store_wf, hs.readers_bounded.set u [] (Nat.zero_le _), hs.punches_bounded⟩
  | punch u => exact ⟨hs.store_wf, hs.readers_bounded, hs.punches_bounded.set u [] (Nat.zero_le _)⟩

theorem readerFill_keeps_inv (k : Nat) (bytes : List Byte) (hs : s.Inv p) (h : readerFill p k bytes s = some t) :
    t.Inv p := by
  obtain hn | ⟨u, -, -, -, hlen, hf⟩ := readerFill_cases p k bytes s
  · rw [hn] at h
    cases h
  · rw [hf] at h
    cases h
    exact ⟨hs.store_wf, hs.readers_bounded.set u _ hlen, hs.punches_bounded⟩

/-- Everything `run` can do when it is accepted (R1047). -/
theorem runEffect_eq_some (addr : Option AddrText) (h : runEffect addr s = some t) :
    s.mode = .stop ∧ ∃ pc : HalfAddr, t = (s.setPc pc).setMode .run := by
  unfold runEffect at h
  split at h
  · cases h
  · next hm =>
    cases h
    exact ⟨hm, s.pc, rfl⟩
  · next hm =>
    obtain ⟨pc, -, rfl⟩ := Option.map_eq_some_iff.1 h
    exact ⟨hm, pc, rfl⟩

/-- `check` changes nothing but the poll counter (R1053). -/
theorem checkEffect_state (s : State) : ∃ n : Nat, (checkEffect s).1 = s.setPoll n := by
  unfold checkEffect
  split
  · exact ⟨s.poll, rfl⟩
  · exact ⟨0, rfl⟩

/-- `wg` changes nothing but WG (R1050). -/
theorem hostEffect_wg_state (arg : WgArg) {r : Reply} (h : hostEffect p (.wg arg) s = some (t, r)) :
    ∃ w : Word, t = s.setWg w := by
  match arg, h with
  | .show, h =>
    cases h
    exact ⟨s.wg, rfl⟩
  | .set _, h | .f1 _, h | .f2 _, h | .n1 _ _, h | .n2 _, h =>
    obtain ⟨w, -, h⟩ := Option.map_eq_some_iff.1 h
    cases h
    exact ⟨w, rfl⟩

theorem hostEffect_keeps_inv (o : HostOp) {r : Reply} (hs : s.Inv p) (h : hostEffect p o s = some (t, r)) :
    t.Inv p := by
  cases o with
  | memWrite a text =>
    obtain ⟨-, h⟩ := Option.ite_none_right_eq_some.1 h
    obtain ⟨w, -, h⟩ := Option.map_eq_some_iff.1 h
    cases h
    exact hs.write (maskAddr a) w rfl rfl rfl
  | memRead a =>
    obtain ⟨-, h⟩ := Option.ite_none_right_eq_some.1 h
    cases h
    exact hs
  | run a =>
    obtain ⟨u, hu, h⟩ := Option.map_eq_some_iff.1 h
    cases h
    obtain ⟨-, pc, rfl⟩ := runEffect_eq_some a hu
    exact hs.congr rfl rfl rfl
  | reader k bytes =>
    obtain ⟨u, hu, h⟩ := Option.map_eq_some_iff.1 h
    cases h
    exact readerFill_keeps_inv k bytes hs hu
  | wg arg =>
    obtain ⟨w, rfl⟩ := hostEffect_wg_state arg h
    exact hs.congr rfl rfl rfl
  | check =>
    obtain ⟨n, hn⟩ := checkEffect_state s
    have ht : t = s.setPoll n := by
      rw [← hn]
      exact (congrArg Prod.fst (Option.some.inj h)).symm
    exact ht ▸ hs.congr rfl rfl rfl
  | close d =>
    cases h
    exact closeUnit_keeps_inv d hs
  | reset | resetRun | cont | stop | status | terminate =>
    cases h
    exact hs.congr rfl rfl rfl
  | malformed => cases h

theorem hostOp_keeps_inv (o : HostOp) (hs : s.Inv p) : (hostOp p o s).1.Inv p := by
  obtain ⟨-, h⟩ | ⟨u, r, he, h⟩ := hostOp_cases p o s
  · exact h ▸ hs
  · exact h ▸ (hostEffect_keeps_inv o hs he).congr rfl rfl rfl

theorem drainPunch_keeps_inv (u : UnitNo) (hs : s.Inv p) : (drainPunch u s).Inv p := by
  obtain ⟨-, h⟩ | ⟨b, rest, hq, h⟩ := drainPunch_cases u s
  · rw [h]
    exact hs
  · have hlen := hs.punches_bounded u
    rw [hq, List.length_cons] at hlen
    exact h ▸ ⟨hs.store_wf, hs.readers_bounded, hs.punches_bounded.set u rest (by omega)⟩

theorem busyNotice_keeps_inv (hs : s.Inv p) : (busyNotice s).Inv p := by
  unfold busyNotice
  split
  · exact hs.congr rfl rfl rfl
  · exact hs
  · exact hs

/-! ## Sequences of events -/

theorem act_keeps_inv (a : Act) (hs : s.Inv p) : (act p a s).Inv p := by
  cases a with
  | step => exact stepWith_keeps_inv hs (stepWith_eq_engineStep p s)
  | host o => exact hostOp_keeps_inv o hs
  | drain u => exact drainPunch_keeps_inv u hs
  | notice => exact busyNotice_keeps_inv hs

theorem runActs_keeps_inv (as : List Act) (hs : s.Inv p) : (runActs p as s).Inv p := by
  induction as generalizing s with
  | nil => exact hs
  | cons a rest ih =>
    by_cases ha : a = .host .terminate
    · rw [ha, runActs_terminate]
      exact hs.congr rfl rfl rfl
    · rw [runActs_cons p a rest s ha]
      exact ih (act_keeps_inv a hs)

end

/-! ## The end at `terminate` (R1040, R1056) -/

theorem runActs_append_terminate (p : Config.Params) (as bs : List Act) (s : State) :
    runActs p (as ++ .host .terminate :: bs) s = runActs p (as ++ [.host .terminate]) s := by
  induction as generalizing s with
  | nil => exact (runActs_terminate p bs s).trans (runActs_terminate p [] s).symm
  | cons a rest ih =>
    by_cases ha : a = .host .terminate
    · simp only [List.cons_append, ha, runActs_terminate]
    · simp only [List.cons_append, runActs_cons p a _ s ha, ih]

/-- The iteration that takes a `terminate` is the loop's last. -/
theorem runLoop_terminate (p : Config.Params) (rest : List (Option HostOp)) (s : State) :
    runLoop p (some .terminate :: rest) s = (loopIteration p (some .terminate) s).1 := by
  have h : (loopIteration p (some .terminate) s).2 = some .terminated := rfl
  simp [runLoop, h]

theorem runLoop_append_terminate (p : Config.Params) (cs ds : List (Option HostOp)) (s : State) :
    runLoop p (cs ++ some .terminate :: ds) s = runLoop p (cs ++ [some .terminate]) s := by
  induction cs generalizing s with
  | nil => exact (runLoop_terminate p ds s).trans (runLoop_terminate p [] s).symm
  | cons c rest ih => simp only [List.cons_append, runLoop, ih]

/-! ## The obligations -/

/-- Settles O4, by the form of the instruction that the step runs. -/
theorem stepKeepsInvariant : Obligations.StepKeepsInvariant :=
  ⟨fun _ _ hs h => stepWith_keeps_inv hs (step_eq ▸ h), fun _ _ _ hs h => stepWith_keeps_inv hs h⟩

/-- Settles O6, by induction on the events before the `terminate`. -/
theorem everyEventSequenceKeepsInvariantAndEndsAtTerminate :
    Obligations.EveryEventSequenceKeepsInvariantAndEndsAtTerminate := fun p s =>
  ⟨fun as hs => runActs_keeps_inv as hs, fun as bs => runActs_append_terminate p as bs s,
    fun cs ds => runLoop_append_terminate p cs ds s⟩

end Sys2Proof.Machine
end

section
/-! # Which instructions change which registers (spec/10_state.md R102 to R110) -/

namespace Sys2Proof.Machine

open Host

section
variable {p : Config.Params} {i : Instr} {s t : State}

/-- OVR is only ever ORed into, but by a taken transfer on overflow (R103). -/
theorem Effect.ovr_eq (e : Effect p i s t) : (∃ o : Bool, t.ovr = (s.ovr || o)) ∨ overflowTransfer i := by
  cases e with
  | compute _ o | store _ _ o | double _ _ o => exact .inl ⟨o, rfl⟩
  | overflowJump _ overflow => exact .inr overflow
  | fallThrough | selfJump | jump | readGenerator | readHold | readByte | punchHold | punchByte | unimplemented =>
    exact .inl ⟨false, (Bool.or_false _).symm⟩

theorem Effect.overflowTransfer_of_cleared (e : Effect p i s t) (hset : s.ovr = true) (hclear : t.ovr = false) :
    overflowTransfer i := by
  obtain ⟨o, ho⟩ | h := e.ovr_eq
  · rw [hset, hclear, Bool.true_or] at ho
    cases ho
  · exact h

/-- Only a halt changes mode (R105, R701, R1006). -/
theorem Effect.mode_eq (e : Effect p i s t) :
    t.mode = s.mode ∨
      (t.mode = .stop ∧ t.pc = s.pc ∧
        (unimplementedOp i ∨ (Opcode.group i.opcode = 4 ∧ i.opcode ≠ 0o43 ∧ i.opcode ≠ 0o47))) := by
  cases e with
  | selfJump form plain => exact .inr ⟨rfl, rfl, .inr ⟨form, not_or.1 plain⟩⟩
  | unimplemented form => exact .inr ⟨rfl, rfl, .inl form⟩
  | compute | store | double | fallThrough | overflowJump | jump | readGenerator | readHold | readByte | punchHold
  | punchByte => exact .inl rfl

/-- Only a hold changes busy (R106, R902, R905). -/
theorem Effect.busy_eq (e : Effect p i s t) :
    t.busy = s.busy ∨
      (i.opcode = 0o71 ∧ s.readers.get (unitOf p i.addr) = [] ∧ t.busy = some (.reader (unitOf p i.addr))) ∨
      (i.opcode = 0o74 ∧ p.ringCapacity ≤ (s.punches.get (unitOf p i.addr)).length ∧
        t.busy = some (.punch (unitOf p i.addr))) := by
  cases e with
  | readHold form empty => exact .inr (.inl ⟨form, empty, rfl⟩)
  | punchHold form full => exact .inr (.inr ⟨form, full, rfl⟩)
  | compute | store | double | fallThrough | overflowJump | selfJump | jump | readGenerator | readByte | punchByte
  | unimplemented => exact .inl rfl

/-- No instruction writes WG (R107). -/
theorem Effect.wg_eq (e : Effect p i s t) : t.wg = s.wg := by cases e <;> rfl

/-- Who writes poll, AR and the buffers (R102, R108, R110). -/
theorem Effect.registers_eq (e : Effect p i s t) :
    (t.poll = s.poll ∨ (i.opcode = 0o70 ∧ t.poll = s.poll + 1)) ∧
    (t.aux = s.aux ∨ Opcode.group i.opcode = 5) ∧
    (t.readers = s.readers ∨ i.opcode = 0o71) ∧
    (t.punches = s.punches ∨ i.opcode = 0o74) := by
  cases e with
  | double _ _ _ form => exact ⟨.inl rfl, .inr form, .inl rfl, .inl rfl⟩
  | readGenerator form => exact ⟨.inr ⟨form, rfl⟩, .inl rfl, .inl rfl, .inl rfl⟩
  | readByte _ _ form => exact ⟨.inl rfl, .inl rfl, .inr form, .inl rfl⟩
  | punchByte _ form => exact ⟨.inl rfl, .inl rfl, .inl rfl, .inr form⟩
  | compute | store | fallThrough | overflowJump | selfJump | jump | readHold | punchHold | unimplemented =>
    exact ⟨.inl rfl, .inl rfl, .inl rfl, .inl rfl⟩

end

/-- Settles O21: every form but the overflow transfers ORs into OVR. -/
theorem overflowFlagIsSticky : Obligations.OverflowFlagIsSticky :=
  ⟨fun _ _ _ h => (effect_of_exec h).overflowTransfer_of_cleared,
    fun _ _ _ _ h => (effect_of_execWith h).overflowTransfer_of_cleared⟩

/-- Settles O22: the two halting forms and the two holding forms. -/
theorem modeAndBusyChangeOnlyByHaltAndHold : Obligations.ModeAndBusyChangeOnlyByHaltAndHold :=
  ⟨fun _ _ _ h => ⟨(effect_of_exec h).mode_eq, (effect_of_exec h).busy_eq⟩,
    fun _ _ _ _ h => ⟨(effect_of_execWith h).mode_eq, (effect_of_execWith h).busy_eq⟩⟩

/-- Settles O23, by the form of the instruction. -/
theorem registersWrittenOnlyByTheirInstructions : Obligations.RegistersWrittenOnlyByTheirInstructions :=
  ⟨fun _ _ _ h => ⟨(effect_of_exec h).wg_eq, (effect_of_exec h).registers_eq⟩,
    fun _ _ _ _ h => ⟨(effect_of_execWith h).wg_eq, (effect_of_execWith h).registers_eq⟩⟩

end Sys2Proof.Machine
end

section
/-! # The state at creation (spec/10_state.md R109, R113, spec/70_reset_and_hazards.md R1102) -/

namespace Sys2Proof.Machine

theorem created_store (p : Config.Params) : (State.created p).store = storeOf p.initialStore := rfl

/-- Six empty buffers are within any capacity. -/
theorem created_inv (p : Config.Params) : (State.created p).Inv p where
  store_wf := storeOf_wf p.initialStore
  readers_bounded u := by cases u <;> exact Nat.zero_le _
  punches_bounded u := by cases u <;> exact Nat.zero_le _

/-- The machine's own `initial_store` is all 0, which lists nothing. -/
theorem reset_eq_created : State.reset = State.created params := by
  have h : storeOf params.initialStore = [] := listWords_zero 0 storeSize
  rw [State.created, h]
  rfl

/-- Settles O2: the store, the one item that the configuration gives, is not among those named. -/
theorem stateAtCreation : Obligations.StateAtCreation := by
  intro c hc
  have h : ∃ p : Config.Params, c = State.created p := hc.elim (fun h => ⟨params, h.trans reset_eq_created⟩) id
  obtain ⟨p, rfl⟩ := h
  exact ⟨rfl, rfl, rfl, rfl, rfl, rfl, rfl, rfl, fun u => by cases u <;> exact ⟨rfl, rfl⟩⟩

/-- Settles O5, by the canonical list of the initial contents. -/
theorem stateAtCreationMeetsInvariant : Obligations.StateAtCreationMeetsInvariant :=
  ⟨reset_eq_created ▸ created_inv params, reset_eq_created,
    fun p => ⟨created_inv p, fun a => created_store p ▸ storeOf_read p.initialStore a⟩⟩

end Sys2Proof.Machine
end

section
/-! # Which path sees a written word (spec/20_memory.md R202 to R205, R214, spec/70_reset_and_hazards.md R1121)

The two read paths inside the overlay, and `storedOnly` of Safety.lean taken apart into one rule per path: what it reads
at the written word and at every other word. `storedOnly_of_write` ties them to the model's write. -/

namespace Sys2Proof.Machine

open Host

/-! ## The two read paths -/

/-- Below address 4 the data path does not look at the store (R202). -/
theorem memRead_overlay (s : State) {a : Addr} (h : a.toNat < 4) : memRead s a = 0 := by
  simp [memRead, inOverlay, h]

/-- Below address 4 the fetch path does not look at the store (R203). -/
theorem progRead_overlay (p : Config.Params) (s : State) {a : Addr} (h : a.toNat < 4) :
    progRead p s a = p.bootstrap[a.toNat] := dif_pos h

section
variable {s t : State} {n a : Addr} {v : Word}

theorem storedOnly_memWrite (n : Addr) (v : Word) (h : s.store.wf = true) : storedOnly s (memWrite s n v) n v :=
  storedOnly_of_write s _ n v h (memWrite_store s n v)

theorem storedOnly.read_same (h : storedOnly s t n v) : t.store.read n.toNat = v := h.1

theorem storedOnly.memRead_same (h : storedOnly s t n v) (hn : 4 ≤ n.toNat) : memRead t n = v := by
  obtain ⟨-, -, data, -⟩ := h
  rw [data, if_neg (by omega), if_pos rfl]

theorem storedOnly.progRead_same (p : Config.Params) (h : storedOnly s t n v) (hn : 4 ≤ n.toNat) :
    progRead p t n = v := by
  obtain ⟨-, -, -, code⟩ := h
  rw [code, if_pos ⟨hn, rfl⟩]

theorem storedOnly.memRead_other (h : storedOnly s t n v) (ha : a ≠ n) : memRead t a = memRead s a := by
  obtain ⟨-, -, data, -⟩ := h
  by_cases low : a.toNat < 4
  · rw [memRead_overlay t low, memRead_overlay s low]
  · rw [data, if_neg low, if_neg ha]

theorem storedOnly.progRead_other (p : Config.Params) (h : storedOnly s t n v) (ha : a ≠ n) :
    progRead p t a = progRead p s a := by
  obtain ⟨-, -, -, code⟩ := h
  rw [code, if_neg fun written => ha written.2]

end

/-- Settles O3, by the rules of the two read paths after a write. -/
theorem writtenWordVisibility : Obligations.WrittenWordVisibility := by
  intro p s a v wf
  have stored := storedOnly_memWrite a v wf
  exact ⟨stored.read_same, fun low => ⟨memRead_overlay _ low, progRead_overlay p _ low⟩,
    fun high => ⟨stored.memRead_same high, stored.progRead_same p high⟩,
    fun _ other => ⟨stored.memRead_other other, stored.progRead_other p other⟩⟩

/-! ## The second half of a word -/

theorem wordAddrOf_secondHalfOf (n : Addr) : wordAddrOf (secondHalfOf n) = n :=
  BitVec.extractLsb'_append_eq_left

theorem selectsSecond_secondHalfOf (n : Addr) : selectsSecond (secondHalfOf n) = true := by
  unfold selectsSecond secondHalfOf
  rw [BitVec.getLsbD_append]
  rfl

/-- A half-word address is `address * 2 + half` (R104). -/
theorem firstHalfOf_toNat (n : Addr) : (firstHalfOf n).toNat = n.toNat * 2 :=
  (BitVec.toNat_append n 0#1).trans (by simp [Nat.shiftLeft_eq])

theorem secondHalfOf_toNat (n : Addr) : (secondHalfOf n).toNat = n.toNat * 2 + 1 := by
  have sum : n.toNat <<< 1 + 1 = n.toNat <<< 1 ||| 1 := Nat.shiftLeft_add_eq_or_of_lt (by decide) n.toNat
  exact (BitVec.toNat_append n 1#1).trans (sum.symm.trans (by rw [Nat.shiftLeft_eq]))

/-- After the first half of a word comes its second (R320). -/
theorem firstHalfOf_add_one (n : Addr) : firstHalfOf n + 1 = secondHalfOf n := by
  have first := firstHalfOf_toNat n
  have second := secondHalfOf_toNat n
  bv_omega

/-- The second half holds F2 and N2 (R300, R301). -/
theorem decodeHalf_secondHalf (w : Word) : decodeHalf (Word.secondHalf w) = decodeOp (Word.f2 w) (Word.n2 w) := by
  have opcode : Half.opcode (Word.secondHalf w) = Word.f2 w := BitVec.extractLsb'_extractLsb'_of_le (by decide)
  have addr : Half.addr (Word.secondHalf w) = Word.n2 w := BitVec.extractLsb'_extractLsb'_of_le (by decide)
  rw [decodeHalf, opcode, addr]

theorem modifiedWord_of_not_bflag (s : State) {w : Word} (h : Word.bflag w = false) : modifiedWord s w = w := by
  simp [modifiedWord, h]

/-- A second half without the B flag is fetched as it stands (R311). -/
theorem fetch_secondHalf {p : Config.Params} {s : State} {w : Word} (second : selectsSecond s.pc = true)
    (word : currentWord p s = w) (unmodified : Word.bflag w = false) :
    fetch p s = decodeOp (Word.f2 w) (Word.n2 w) := by
  rw [fetch, fetchHalf, if_pos second, word, modifiedWord_of_not_bflag s unmodified, decodeHalf_secondHalf]

/-! ## A store into the word that is being executed -/

/-- `20 N` stores A and does nothing else (R601). -/
theorem execWith_op20 (p : Config.Params) (n : Addr) (s : State) :
    execWith p (.op20 n) s = .next { s with pc := s.pc + 1, store := s.store.write n.toNat s.acc } := by
  have h : execWith p (.op20 n) s = .next (storeBack .noop n s) := rfl
  rw [h, storeBack_eq]
  simp [aluApply]

/-- A word written from 4 up is the word at pc when pc is at either of its halves (R214). -/
theorem storedOnly.currentWord {s t : State} {n : Addr} {v : Word} (p : Config.Params) (stored : storedOnly s t n v)
    (high : 4 ≤ n.toNat) (here : wordAddrOf t.pc = n) : Machine.currentWord p t = v := by
  rw [Machine.currentWord, here, stored.progRead_same p high]

/-- `20 n` as the first half of word n: the second half executed next is that of the word it stored. -/
theorem stepWith_store_own_word (p : Config.Params) {s : State} {n : Addr} (live : s.live) (wf : s.store.wf = true)
    (high : 4 ≤ n.toNat) (first : s.pc = firstHalfOf n) (fetched : fetch p s = .op20 n) :
    ∃ t : State, stepWith p s = .next t ∧ t.pc = secondHalfOf n ∧ currentWord p t = s.acc ∧
      (Word.bflag s.acc = false → fetch p t = decodeOp (Word.f2 s.acc) (Word.n2 s.acc)) := by
  have ran := stepWith_live p s live
  rw [fetched, execWith_op20] at ran
  obtain ⟨t, ran, pc, stored⟩ :
      ∃ t : State, stepWith p s = .next t ∧ t.pc = secondHalfOf n ∧ storedOnly s t n s.acc :=
    ⟨_, ran, by rw [← firstHalfOf_add_one, ← first], storedOnly_of_write s _ n s.acc wf rfl⟩
  have word : currentWord p t = s.acc := stored.currentWord p high (pc ▸ wordAddrOf_secondHalfOf n)
  exact ⟨t, ran, pc, word, fetch_secondHalf (pc ▸ selectsSecond_secondHalfOf n) word⟩

/-- Settles O18: the step stores A at its own word, and the fetch path reads that word again. -/
theorem selfModifiedSecondHalfIsFetched : Obligations.SelfModifiedSecondHalfIsFetched :=
  ⟨fun _ _ => step_eq ▸ stepWith_store_own_word params, fun p _ _ => stepWith_store_own_word p⟩

end Sys2Proof.Machine
end

section
/-! # The encoding and its inverse (spec/30_encoding.md R300, R301, R330, R331, R340, R341)

The opcode map is a bijection between the fields F, N and the instructions: `decodeOp_opcode_addr` and
`opcode_decodeOp`, `addr_decodeOp`. A word is its fields: `packHalves_fields` and `packWord_fields`. -/

namespace Sys2Proof

/-! ## The opcode map -/

/-- Every instruction stands in the opcode map at its own F (R330). -/
theorem decodeOp_opcode_addr (i : Instr) : decodeOp i.opcode i.addr = i := by
  cases i <;> simp only [Instr.opcode, Instr.addr] <;> rfl

/-- Every value of F selects an instruction with that F, which keeps N: the 64 rows of the map (R330, R331). -/
theorem decodeOp_fields (f : Opcode) (n : Addr) : (decodeOp f n).opcode = f ∧ (decodeOp f n).addr = n := by
  obtain ⟨row⟩ := f
  fin_cases row <;> exact ⟨rfl, rfl⟩

@[simp] theorem opcode_decodeOp (f : Opcode) (n : Addr) : (decodeOp f n).opcode = f := (decodeOp_fields f n).1

@[simp] theorem addr_decodeOp (f : Opcode) (n : Addr) : (decodeOp f n).addr = n := (decodeOp_fields f n).2

/-- Settles O7: the two fields of an encoded instruction are its own, and they select it in the opcode map. -/
theorem decodeOfEncodedInstruction : Obligations.DecodeOfEncodedInstruction := by
  intro i
  obtain ⟨opcode, addr, -⟩ := Laws.encodedFields i
  rw [decodeHalf, opcode, addr, decodeOp_opcode_addr]

/-! ## A word is its fields -/

/-- A half-instruction is F then N (R301). -/
theorem opcode_append_addr (h : Half) : Half.opcode h ++ Half.addr h = h := BitVec.extractLsb'_append_extractLsb'

/-- No bit of a half-instruction is dropped by the decoder (R331). -/
theorem encode_decodeHalf (h : Half) : encode (decodeHalf h) = h := by
  rw [encode, decodeHalf, opcode_decodeOp, addr_decodeOp, opcode_append_addr]

/-- The B flag as a field of one bit. -/
theorem ofBool_bflag (w : Word) : BitVec.ofBool (Word.bflag w) = w.extractLsb' 19 1 := by
  ext j hj
  obtain rfl : j = 0 := by omega
  simp [Word.bflag]

/-- A word is its two halves and the B flag between them (R300). -/
theorem packHalves_fields (w : Word) : packHalves (Word.firstHalf w) (Word.bflag w) (Word.secondHalf w) = w := by
  have upper : Word.firstHalf w ++ w.extractLsb' 19 1 = w.extractLsb' 19 20 :=
    BitVec.extractLsb'_append_extractLsb'_eq_extractLsb' rfl
  rw [packHalves, ofBool_bflag, upper]
  exact BitVec.extractLsb'_append_extractLsb'

theorem f1_append_n1 (w : Word) : Word.f1 w ++ Word.n1 w = Word.firstHalf w :=
  BitVec.extractLsb'_append_extractLsb'_eq_extractLsb' rfl

theorem f2_append_n2 (w : Word) : Word.f2 w ++ Word.n2 w = Word.secondHalf w :=
  BitVec.extractLsb'_append_extractLsb'_eq_extractLsb' rfl

/-- A word is its five fields (R300). -/
theorem packWord_fields (w : Word) :
    packWord (Word.f1 w) (Word.n1 w) (Word.bflag w) (Word.f2 w) (Word.n2 w) = w := by
  rw [packWord, f1_append_n1, f2_append_n2, packHalves_fields]

/-- Settles O8: each half encodes back, and the word is its halves and the B flag. -/
theorem encodeOfDecodedWord : Obligations.EncodeOfDecodedWord := by
  intro w
  rw [encodeWord, encode_decodeHalf, encode_decodeHalf, packHalves_fields]

/-! ## The value of a word -/

/-- The value of two fields side by side: the upper one weighs 2 to the width of the lower. -/
theorem toNat_append_eq_sum {m n : Nat} (x : BitVec m) (y : BitVec n) : (x ++ y).toNat = x.toNat * 2 ^ n + y.toNat := by
  rw [BitVec.toNat_append, ← Nat.shiftLeft_add_eq_or_of_lt y.isLt, Nat.shiftLeft_eq]

theorem packWord_toNat (f1 : Opcode) (n1 : Addr) (b : Bool) (f2 : Opcode) (n2 : Addr) :
    (packWord f1 n1 b f2 n2).toNat =
      f1.toNat * 2 ^ 33 + n1.toNat * 2 ^ 20 + b.toNat * 2 ^ 19 + f2.toNat * 2 ^ 13 + n2.toNat := by
  simp only [packWord, packHalves, toNat_append_eq_sum, BitVec.toNat_ofBool]
  ring

/-- Settles O9: the sum of packed fields, and any word is packed from its own. -/
theorem wordIsSumOfItsFields : Obligations.WordIsSumOfItsFields :=
  ⟨packWord_toNat, fun w => (congrArg BitVec.toNat (packWord_fields w)).symm.trans (packWord_toNat _ _ _ _ _)⟩

/-! ## Written words -/

/-- The numbers a word is shown with pass the range checks, since they are values of its fields (R340). -/
theorem textOfWord_wellFormed (w : Word) : (textOfWord w).wellFormed = true := by
  have hf1 := (Word.f1 w).isLt
  have hn1 := (Word.n1 w).isLt
  have hf2 := (Word.f2 w).isLt
  have hn2 := (Word.n2 w).isLt
  simp only [textOfWord, CodeText.wellFormed, opcodeInRange, addrInRange, Bool.and_eq_true, decide_eq_true_eq]
  omega

/-- Settles O10: the numbers are in range, and the fields they stand for pack to the word. -/
theorem wordTextRoundTrip : Obligations.WordTextRoundTrip := by
  intro w
  unfold CodeText.word
  rw [if_pos (textOfWord_wellFormed w)]
  simp only [textOfWord, BitVec.ofNat_toNat, BitVec.setWidth_eq, packWord_fields]

theorem literalInRange_iff (d : Int) : literalInRange d = true ↔ -274877906944 ≤ d ∧ d ≤ 274877906943 :=
  decide_eq_true_iff

/-- `u(v)` of R8 keeps the value of every integer in MIN to MAX. -/
theorem wordOfInt_toInt {d : Int} (h : -274877906944 ≤ d ∧ d ≤ 274877906943) : (wordOfInt d).toInt = d :=
  BitVec.toInt_ofInt_eq_self (by decide) (by omega) (by omega)

/-- Settles O11: the range check, and the value `u(v)` keeps. -/
theorem decimalLiteralValue : Obligations.DecimalLiteralValue := fun d =>
  ⟨fun inside => ⟨wordOfInt d, if_pos ((literalInRange_iff d).2 inside), wordOfInt_toInt inside⟩,
    fun outside => if_neg (mt (literalInRange_iff d).1 outside)⟩

/-- Settles O12, row by row of the opcode map. -/
theorem writtenHalvesDecode : Obligations.WrittenHalvesDecode := ⟨rfl, rfl, rfl, rfl, rfl, rfl⟩

end Sys2Proof
end

section
/-! # Fetch, the step and the program counter (spec/30_encoding.md R310, R311, R320, R321) -/

namespace Sys2Proof.Machine

/-! ## The halves of a half-word address -/

/-- `pc >> 1` (R104). -/
theorem wordAddrOf_eq_ofNat (pc : HalfAddr) : wordAddrOf pc = BitVec.ofNat 13 (pc.toNat / 2) := by
  apply BitVec.eq_of_toNat_eq
  simp [wordAddrOf, Nat.shiftRight_eq_div_pow]

/-- pc selects the second half exactly when it is odd (R104). -/
theorem selectsSecond_iff (pc : HalfAddr) : selectsSecond pc = true ↔ pc.toNat % 2 = 1 := by
  simp [selectsSecond, BitVec.getLsbD, Nat.testBit_zero]

/-- An even half-word address is the first half of its word. -/
theorem eq_firstHalfOf_of_even {pc : HalfAddr} (even : pc.toNat % 2 = 0) : pc = firstHalfOf (wordAddrOf pc) := by
  have range := pc.isLt
  apply BitVec.eq_of_toNat_eq
  rw [firstHalfOf_toNat, wordAddrOf_eq_ofNat, BitVec.toNat_ofNat]
  omega

/-! ## Fetch -/

/-- The first half holds F1 and N1 (R300, R301). -/
theorem decodeHalf_firstHalf (w : Word) : decodeHalf (Word.firstHalf w) = decodeOp (Word.f1 w) (Word.n1 w) := by
  rw [decodeHalf, ← f1_append_n1, opcodeField_of_append, addrField_of_append]

theorem modifiedWord_of_bflag (s : State) {w : Word} (h : Word.bflag w = true) :
    modifiedWord s w = w + memRead s (Word.n1 w) := if_pos h

theorem fetchHalf_even (p : Config.Params) {s : State} (even : s.pc.toNat % 2 = 0) :
    fetchHalf p s = Word.firstHalf (currentWord p s) :=
  if_neg (mt (selectsSecond_iff s.pc).1 (by omega))

theorem fetchHalf_odd (p : Config.Params) {s : State} (odd : s.pc.toNat % 2 = 1) :
    fetchHalf p s = Word.secondHalf (modifiedWord s (currentWord p s)) :=
  if_pos ((selectsSecond_iff s.pc).2 odd)

/-- At an even pc the instruction is F1, N1 of the word there (R311). -/
theorem fetch_even (p : Config.Params) {s : State} (even : s.pc.toNat % 2 = 0) :
    fetch p s = decodeOp (Word.f1 (currentWord p s)) (Word.n1 (currentWord p s)) := by
  rw [fetch, fetchHalf_even p even, decodeHalf_firstHalf]

/-- Settles O13: the first half, the second half as it stands, and the second half of the modified word. -/
theorem fetchSelectsHalf : Obligations.FetchSelectsHalf := by
  intro p s
  have word : progRead p s (BitVec.ofNat 13 (s.pc.toNat / 2)) = currentWord p s :=
    congrArg (progRead p s) (wordAddrOf_eq_ofNat s.pc).symm
  rw [word]
  refine ⟨fetch_even p, fun odd plain => ?_, fun odd modified => ?_⟩
  · exact fetch_secondHalf ((selectsSecond_iff s.pc).2 odd) rfl plain
  · rw [fetch, fetchHalf_odd p odd, modifiedWord_of_bflag s modified, decodeHalf_secondHalf]

/-! ## The step -/

theorem State.stuck_iff_not_live (s : State) : s.stuck ↔ ¬ s.live := by
  have mode : s.mode = .stop ↔ s.mode ≠ .run := by cases s.mode <;> simp
  rw [State.stuck, State.live, mode, not_and_or]

theorem stepWith_runs_or_stays (p : Config.Params) (s : State) (i : Instr) :
    (s.mode = .run → s.busy = none → decodeHalf (fetchHalf p s) = i → stepWith p s = execWith p i s) ∧
    (s.mode = .stop ∨ s.busy ≠ none → stepWith p s = .next s) :=
  ⟨fun run idle fetched => fetched ▸ stepWith_live p s ⟨run, idle⟩,
    fun stuck => stepWith_stuck p s (s.stuck_iff_not_live.1 stuck)⟩

/-- Settles O14: the two branches of a step. -/
theorem stepRunsFetchedInstruction : Obligations.StepRunsFetchedInstruction :=
  ⟨step_eq ▸ exec_eq ▸ stepWith_runs_or_stays params, stepWith_runs_or_stays⟩

theorem step_stuck {s : State} (h : s.stuck) : step s = .next s := by
  rw [step_eq]
  exact stepWith_stuck params s (s.stuck_iff_not_live.1 h)

/-- A run whose first step gives `t` goes on from `t`. -/
theorem run_succ_of_next {M : Host.Core} {k : Nat} {s t : M.State} (h : M.step s = .next t) :
    M.run (k + 1) s = M.run k t := by
  rw [Host.Core.run, h]

/-- Settles O15, by induction on the number of steps: each one leaves the state as it is. -/
theorem stuckEngineStaysAsItIs : Obligations.StuckEngineStaysAsItIs := by
  intro k s stuck
  induction k with
  | zero => rfl
  | succ k ih =>
    have first : Sys2Proof.core.step s = .next s := step_stuck stuck
    exact (run_succ_of_next first).trans ih

/-! ## The program counter -/

/-- In group 4 the variants 4 to 7, the opcodes 44 to 47, are those with bit 2 set (R700). -/
theorem targetsSecond_iff {f : Opcode} : Opcode.group f = 4 → (f.getLsbD 2 = true ↔ 36 ≤ f.toNat) := by
  revert f
  decide

/-- A transfer's target is N*2 for 40 to 43 and N*2 + 1 for 44 to 47 (R700). -/
theorem transferTarget_toNat {i : Instr} (form : Opcode.group i.opcode = 4) :
    (i.opcode.toNat < 36 ∧ (transferTarget i).toNat = i.addr.toNat * 2) ∨
    (36 ≤ i.opcode.toNat ∧ (transferTarget i).toNat = i.addr.toNat * 2 + 1) := by
  by_cases second : i.opcode.getLsbD 2 = true
  · exact .inr ⟨(targetsSecond_iff form).1 second, by rw [transferTarget, if_pos second, secondHalfOf_toNat]⟩
  · have low : i.opcode.toNat < 36 := Nat.lt_of_not_le (mt (targetsSecond_iff form).2 second)
    exact .inl ⟨low, by rw [transferTarget, if_neg second, firstHalfOf_toNat]⟩

/-- Where pc is after an instruction: further by one, at a transfer's target, or still there (R104, R321). -/
theorem Effect.pc_eq {p : Config.Params} {i : Instr} {s t : State} (e : Effect p i s t) :
    t.pc = s.pc + 1 ∨ (Opcode.group i.opcode = 4 ∧ t.pc = transferTarget i) ∨
      (t.pc = s.pc ∧ unimplementedOp i) ∨ (t.pc = s.pc ∧ (i.opcode = 0o71 ∨ i.opcode = 0o74) ∧ t.busy ≠ none) := by
  cases e with
  | compute | store | fallThrough | double | readGenerator | readByte | punchByte => exact .inl rfl
  | overflowJump form | jump form => exact .inr (.inl ⟨form, rfl⟩)
  | selfJump form _ self => exact .inr (.inl ⟨form, self.symm⟩)
  | unimplemented form => exact .inr (.inr (.inl ⟨rfl, form⟩))
  | readHold form => exact .inr (.inr (.inr ⟨rfl, .inl form, Option.some_ne_none _⟩))
  | punchHold form => exact .inr (.inr (.inr ⟨rfl, .inr form, Option.some_ne_none _⟩))

/-- `Effect.pc_eq` with the transfer's target as a number. -/
theorem Effect.pc_cases {p : Config.Params} {i : Instr} {s t : State} (e : Effect p i s t) :
    t.pc = s.pc + 1 ∨
    (Opcode.group i.opcode = 4 ∧ i.opcode.toNat < 36 ∧ t.pc.toNat = i.addr.toNat * 2) ∨
    (Opcode.group i.opcode = 4 ∧ 36 ≤ i.opcode.toNat ∧ t.pc.toNat = i.addr.toNat * 2 + 1) ∨
    (t.pc = s.pc ∧ unimplementedOp i) ∨
    (t.pc = s.pc ∧ (i.opcode = 0o71 ∨ i.opcode = 0o74) ∧ t.busy ≠ none) := by
  obtain advanced | ⟨form, target⟩ | stopped := e.pc_eq
  · exact .inl advanced
  · obtain first | second := transferTarget_toNat form
    · exact .inr (.inl ⟨form, target ▸ first⟩)
    · exact .inr (.inr (.inl ⟨form, target ▸ second⟩))
  · exact .inr (.inr (.inr stopped))

/-- Settles O17, by the form of the instruction and the two kinds of transfer target. -/
theorem programCounterAfterInstruction : Obligations.ProgramCounterAfterInstruction :=
  ⟨fun _ _ _ h => (effect_of_exec h).pc_cases, fun _ _ _ _ h => (effect_of_execWith h).pc_cases⟩

end Sys2Proof.Machine
end

section
/-! # The word an instruction stores, and the second half it modifies (spec/30_encoding.md R310,
spec/70_reset_and_hazards.md R1121, R1122, R1124)

`execWith_storesWord` says what every instruction that stores a word writes and where. -/

namespace Sys2Proof.Machine

/-! ## The meaning of a group by its variant -/

section
variable (p : Config.Params) {i : Instr} (s : State)

/-- Group 1 is the exchange with the ALU operation of the variant (R550). -/
theorem execWith_decodeGroup1 (v : BitVec 3) (n : Addr) :
    execWith p (decodeGroup1 v.toFin n) s = .next (exchange (AluOp.ofVariant v) n s) := by
  obtain ⟨variant⟩ := v
  fin_cases variant <;> rfl

/-- Group 2 is the store-back with the ALU operation of the variant (R600). -/
theorem execWith_decodeGroup2 (v : BitVec 3) (n : Addr) :
    execWith p (decodeGroup2 v.toFin n) s = .next (storeBack (AluOp.ofVariant v) n s) := by
  obtain ⟨variant⟩ := v
  fin_cases variant <;> rfl

/-- Group 3 is the replacement with the ALU operation of the variant (R650). -/
theorem execWith_decodeGroup3 (v : BitVec 3) (n : Addr) :
    execWith p (decodeGroup3 v.toFin n) s = .next (replace (AluOp.ofVariant v) n s) := by
  obtain ⟨variant⟩ := v
  fin_cases variant <;> rfl

/-- An instruction runs as the row of the opcode map that its own fields select (R330). -/
theorem execWith_row (i : Instr) : execWith p i s = execWith p (decodeOp i.opcode i.addr) s := by
  rw [decodeOp_opcode_addr]

theorem execWith_group1 (form : Opcode.group i.opcode = 1) :
    execWith p i s = .next (exchange (AluOp.ofVariant (Opcode.variant i.opcode)) i.addr s) := by
  rw [execWith_row, decodeOp, form]
  exact execWith_decodeGroup1 p s _ _

theorem execWith_group2 (form : Opcode.group i.opcode = 2) :
    execWith p i s = .next (storeBack (AluOp.ofVariant (Opcode.variant i.opcode)) i.addr s) := by
  rw [execWith_row, decodeOp, form]
  exact execWith_decodeGroup2 p s _ _

theorem execWith_group3 (form : Opcode.group i.opcode = 3) :
    execWith p i s = .next (replace (AluOp.ofVariant (Opcode.variant i.opcode)) i.addr s) := by
  rw [execWith_row, decodeOp, form]
  exact execWith_decodeGroup3 p s _ _

theorem execWith_link (form : i.opcode = 0o73) : execWith p i s = .next (storeLink i.addr s) := by
  rw [execWith_row, form]
  rfl

end

/-! ## The written word -/

/-- The address 73 stores is `pc >> 1` (R904). -/
theorem linkWord_eq_ofNat (pc : HalfAddr) : linkWord pc = BitVec.ofNat 39 (pc.toNat / 2) := by
  have range := pc.isLt
  apply BitVec.eq_of_toNat_eq
  rw [linkWord, wordAddrOf_eq_ofNat]
  simp only [BitVec.toNat_setWidth, BitVec.toNat_ofNat]
  omega

/-- Every instruction that stores a word advances pc and writes `writtenWord` at its address, and nothing else in the
store (R550, R600, R650, R904). -/
theorem execWith_storesWord (p : Config.Params) {i : Instr} (s : State) (form : storesWord i) :
    ∃ t : State, execWith p i s = .next t ∧ t.pc = s.pc + 1 ∧
      t.store = s.store.write i.addr.toNat (writtenWord i s) := by
  obtain exchanges | storesBack | replaces | links := form
  · refine ⟨_, execWith_group1 p s exchanges, rfl, ?_⟩
    simp only [exchange_eq, writtenWord, exchanges, if_true]
  · refine ⟨_, execWith_group2 p s storesBack, rfl, ?_⟩
    simp [storeBack_eq, writtenWord, storesBack, operand]
  · refine ⟨_, execWith_group3 p s replaces, rfl, ?_⟩
    simp [replace_eq, writtenWord, replaces, operand]
  · refine ⟨_, execWith_link p s links, rfl, ?_⟩
    simp [storeLink, advance, writtenWord, links, Opcode.group, linkWord_eq_ofNat]

/-! ## The second half fetched after a store -/

/-- A word written below 4, or elsewhere than at pc's word, leaves the fetched word as it was (R203, R205). -/
theorem storedOnly.currentWord_kept {s t : State} {n : Addr} {v : Word} (p : Config.Params)
    (stored : storedOnly s t n v) (word : wordAddrOf t.pc = wordAddrOf s.pc)
    (elsewhere : n.toNat < 4 ∨ n ≠ wordAddrOf s.pc) : Machine.currentWord p t = Machine.currentWord p s := by
  rw [Machine.currentWord, Machine.currentWord, word]
  by_cases here : wordAddrOf s.pc = n
  · have low : (wordAddrOf s.pc).toNat < 4 := here ▸ elsewhere.resolve_right (not_not_intro here.symm)
    rw [progRead_overlay p t low, progRead_overlay p s low]
  · exact stored.progRead_other p here

/-- A modifier below 4 is 0, whatever the store holds there (R202, R1124). -/
theorem modifiedWord_of_overlay (s : State) {w : Word} (low : (Word.n1 w).toNat < 4) : modifiedWord s w = w := by
  unfold modifiedWord
  split
  · rw [memRead_overlay s low]
    exact BitVec.add_zero w
  · rfl

/-- The first half of a B-modified word stores a word: the second half is fetched from the store it leaves. -/
theorem stepWith_stores_modifier (p : Config.Params) {s : State} {i : Instr} (live : s.live)
    (wf : s.store.wf = true) (even : s.pc.toNat % 2 = 0) (fetched : fetch p s = i) (form : storesWord i)
    (modified : Word.bflag (currentWord p s) = true) :
    ∃ t : State, stepWith p s = .next t ∧ t.pc = s.pc + 1 ∧
      (i.addr.toNat < 4 → fetchHalf p t = Word.secondHalf (currentWord p s)) ∧
      (4 ≤ i.addr.toNat → i.addr ≠ wordAddrOf s.pc →
        fetchHalf p t = Word.secondHalf (currentWord p s + writtenWord i s)) ∧
      (4 ≤ i.addr.toNat → i.addr = wordAddrOf s.pc →
        fetchHalf p t = Word.secondHalf (modifiedWord t (writtenWord i s))) := by
  obtain ⟨t, ran, pc, store⟩ := execWith_storesWord p s form
  have stored : storedOnly s t i.addr (writtenWord i s) := storedOnly_of_write s t _ _ wf store
  have modifier : i.addr = Word.n1 (currentWord p s) := by rw [← fetched, fetch_even p even, addr_decodeOp]
  have second : t.pc = secondHalfOf (wordAddrOf s.pc) := by
    rw [pc, ← firstHalfOf_add_one, ← eq_firstHalfOf_of_even even]
  have word : wordAddrOf t.pc = wordAddrOf s.pc := by rw [second, wordAddrOf_secondHalfOf]
  have half : fetchHalf p t = Word.secondHalf (modifiedWord t (currentWord p t)) :=
    if_pos (second ▸ selectsSecond_secondHalfOf _)
  refine ⟨t, (stepWith_live p s live).trans (fetched ▸ ran), pc, fun low => ?_, fun high away => ?_,
    fun high here => ?_⟩
  · rw [half, stored.currentWord_kept p word (.inl low), modifiedWord_of_overlay t (modifier ▸ low)]
  · rw [half, stored.currentWord_kept p word (.inr away), modifiedWord_of_bflag t modified, ← modifier,
      stored.memRead_same high]
  · rw [half, stored.currentWord p high (word.trans here.symm)]

/-- Settles O19: the modifier is below 4, elsewhere, or the word itself. -/
theorem modifierIsReadAfterFirstHalf : Obligations.ModifierIsReadAfterFirstHalf :=
  ⟨fun _ _ => step_eq ▸ stepWith_stores_modifier params, fun p _ _ => stepWith_stores_modifier p⟩

end Sys2Proof.Machine
end

section
/-! # The ALU's single-length results and their overflow (spec/40_alu.md R401 to R409)

The exact integer result and its word agree exactly inside MIN to MAX: `wordOfInt_toInt_iff`. The three ways the model
indicates overflow (the range test of `narrow`, the comparison with MAX or MIN, and the table on three signs) are each
tied to `outsideWord`. -/

namespace Sys2Proof.Machine

/-! ## Words and integers -/

/-- A word's value lies in MIN to MAX (R8). -/
theorem toInt_inside (w : Word) : minInt ≤ w.toInt ∧ w.toInt ≤ maxInt :=
  ⟨w.le_toInt, Int.le_of_lt_add_one BitVec.toInt_lt⟩

theorem outsideWord_eq_false_iff (v : Int) : outsideWord v = false ↔ minInt ≤ v ∧ v ≤ maxInt := by
  simp [outsideWord]

/-- `u(v)` keeps the value of exactly the integers in MIN to MAX (R8). -/
theorem wordOfInt_toInt_iff (v : Int) : (wordOfInt v).toInt = v ↔ outsideWord v = false := by
  rw [outsideWord_eq_false_iff]
  exact ⟨fun kept => kept ▸ toInt_inside (wordOfInt v), wordOfInt_toInt⟩

/-- The sign of `u(v)` for an integer of one bit more than a word: that of v, unless v is out of range (R8). -/
theorem wordOfInt_msb {v : Int} (low : 2 * minInt ≤ v) (high : v ≤ 2 * maxInt + 1) :
    (wordOfInt v).msb = decide (minInt ≤ v ∧ v < 0 ∨ maxInt < v) := by
  rw [BitVec.msb_eq_toInt, wordOfInt, BitVec.toInt_ofInt, Int.bmod_def, decide_eq_decide]
  simp only [minInt, maxInt] at *
  omega

/-! ## The eight operations -/

theorem aluNegate_min {a : Word} (h : a.toInt = minInt) : aluNegate a = (a, true) :=
  if_pos (decide_eq_true h)

theorem aluNegate_of_ne_min {a : Word} (h : a.toInt ≠ minInt) : aluNegate a = (wordOfInt (-a.toInt), false) :=
  if_neg (mt of_decide_eq_true h)

/-- Settles O25: the cases of `aluApply`, and the two of a negation. -/
theorem aluOperationResults : Obligations.AluOperationResults := fun _ _ _ =>
  ⟨rfl, aluNegate_min, aluNegate_of_ne_min, rfl, rfl, rfl, rfl, rfl, rfl⟩

/-- A narrowed result is exact exactly when no overflow is indicated (R404). -/
theorem narrow_exact_iff (v : Int) : (narrow v).2 = false ↔ (narrow v).1.toInt = v := (wordOfInt_toInt_iff v).symm

/-- MAX is the one word whose increment is out of range (R403). -/
theorem incrementOverflows_eq_outsideWord (n : Word) : incrementOverflows n = outsideWord (n.toInt + 1) := by
  have inside := toInt_inside n
  rw [incrementOverflows, outsideWord, decide_eq_decide]
  simp only [minInt, maxInt] at *
  omega

theorem aluApply_increment (acc a n : Word) : aluApply .increment acc a n = narrow (n.toInt + 1) :=
  congrArg (Prod.mk _) (incrementOverflows_eq_outsideWord n)

/-- Every word but MIN has its negation in range, and MIN, which is given back as it is, is not its own (R402). -/
theorem aluNegate_exact_iff (a : Word) : (aluNegate a).2 = false ↔ (aluNegate a).1.toInt = -a.toInt := by
  have inside := toInt_inside a
  by_cases h : a.toInt = minInt
  · simp [aluNegate_min h, h, minInt]
  · have inRange : outsideWord (-a.toInt) = false := by
      simp only [outsideWord_eq_false_iff, minInt, maxInt] at *
      omega
    simp [aluNegate_of_ne_min h, (wordOfInt_toInt_iff _).2 inRange]

/-- Settles O26: three operations narrow the exact result, an increment is one of them, and a negation checks for MIN. -/
theorem aluResultExactUnlessOverflow : Obligations.AluResultExactUnlessOverflow := by
  intro acc n
  refine ⟨narrow_exact_iff _, narrow_exact_iff _, narrow_exact_iff _, ?_, aluNegate_exact_iff acc⟩
  rw [aluApply_increment]
  exact narrow_exact_iff _

/-! ## The overflow table on three signs -/

/-- The table gives 1 when the operands' signs agree and the result's differs (R404). -/
theorem overflowTable_eq_true_iff (signX signY signR : Bool) :
    overflowTable signX signY signR = true ↔ signX = signY ∧ signR ≠ signX := by
  revert signX signY signR
  decide

/-- The table is the range test of an addition with a carry into the low end, the common form of an addition and a
subtraction (R404). -/
theorem overflowTable_eq_outsideWord {x y carry : Int} (hx : minInt ≤ x ∧ x ≤ maxInt) (hy : minInt ≤ y ∧ y ≤ maxInt)
    (hc : 0 ≤ carry ∧ carry ≤ 1) :
    overflowTable (decide (x < 0)) (decide (y < 0)) (wordOfInt (x + y + carry)).msb = outsideWord (x + y + carry) := by
  have sign := wordOfInt_msb (v := x + y + carry) (by omega) (by omega)
  rw [Bool.eq_iff_iff, overflowTable_eq_true_iff, sign, outsideWord, Ne, decide_eq_decide, decide_eq_decide,
    decide_eq_true_iff]
  simp only [minInt, maxInt] at *
  omega

/-- Settles O27: a subtraction is the addition of the complement with carry 1. -/
theorem overflowTableIsExactRangeTest : Obligations.OverflowTableIsExactRangeTest := by
  intro x y
  have complement : (!y.msb) = decide (-1 - y.toInt < 0) := by
    rw [BitVec.msb_eq_toInt, ← decide_not, decide_eq_decide]
    omega
  have insideNot : minInt ≤ -1 - y.toInt ∧ -1 - y.toInt ≤ maxInt := by
    have inside := toInt_inside y
    simp only [minInt, maxInt] at *
    omega
  constructor
  · have table := overflowTable_eq_outsideWord (carry := 0) (toInt_inside x) (toInt_inside y) (by decide)
    rwa [Int.add_zero, ← BitVec.msb_eq_toInt, ← BitVec.msb_eq_toInt] at table
  · have table := overflowTable_eq_outsideWord (carry := 1) (toInt_inside x) insideNot (by decide)
    rwa [← complement, ← BitVec.msb_eq_toInt, show x.toInt + (-1 - y.toInt) + 1 = x.toInt - y.toInt by omega] at table

end Sys2Proof.Machine
end

section
/-! # Double-length numbers: multiply and divide (spec/40_alu.md R411 to R415, spec/46_group5_shift_muldiv.md R757)

A pair A:AR is its 77-bit pattern: `doublePattern_splitDouble` and `doublePattern_toInt` let a claim about a pair be
proved of the pattern. -/

namespace Sys2Proof.Machine

/-! ## A pair and its pattern -/

/-- No bit is lost when a 77-bit pattern is split into a pair (R411). -/
theorem doublePattern_splitDouble (p : BitVec 77) : doublePattern (splitDouble p).1 (splitDouble p).2 = p :=
  BitVec.extractLsb'_append_extractLsb'

/-- `DL(A, AR)` is the two's-complement value of the 77-bit pattern (R9, R422). -/
theorem doublePattern_toInt (a : Word) (r : Aux) : (doublePattern a r).toInt = doubleLength a r :=
  BitVec.toInt_append.trans (congrArg (· + (r.toNat : Int)) (Int.mul_comm _ _))

theorem doubleLength_splitDouble (p : BitVec 77) : doubleLength (splitDouble p).1 (splitDouble p).2 = p.toInt := by
  rw [← doublePattern_toInt, doublePattern_splitDouble]

/-! ## Multiply -/

/-- The product of two words fits 77 bits, unless both are MIN (R412). -/
theorem mul_toInt_inside {x y : Word} (h : ¬ (x.toInt = minInt ∧ y.toInt = minInt)) :
    -2 ^ 76 ≤ x.toInt * y.toInt ∧ x.toInt * y.toInt < 2 ^ 76 := by
  have hx := toInt_inside x
  have hy := toInt_inside y
  have size : |x.toInt * y.toInt| ≤ 2 ^ 38 * (2 ^ 38 - 1) := by
    simp only [minInt, maxInt] at *
    rw [abs_mul]
    by_cases hmin : x.toInt = -274877906944
    · exact mul_le_mul (abs_le.2 (by omega)) (abs_le.2 (by omega)) (abs_nonneg _) (by decide)
    · rw [mul_comm (2 ^ 38)]
      exact mul_le_mul (abs_le.2 (by omega)) (abs_le.2 (by omega)) (abs_nonneg _) (by decide)
  have bounds := abs_le.1 size
  omega

/-- Settles O28: the product fits the 77-bit pattern, and MIN times MIN is computed. -/
theorem multiplyGivesExactProduct : Obligations.MultiplyGivesExactProduct := by
  intro md mr
  constructor
  · intro h
    have fits := mul_toInt_inside h
    rw [aluMultiply, doubleLength_splitDouble]
    exact BitVec.toInt_ofInt_eq_self (by decide) fits.1 fits.2
  · rintro ⟨hd, hr⟩
    rw [aluMultiply, hd, hr]
    decide

/-! ## Divide -/

/-- The quotient of the magnitudes with its sign re-applied is the quotient truncated toward zero (R413). -/
theorem signedQuotient_eq_tdiv (d v : Int) : signedQuotient d v = Int.tdiv d v := by
  have magnitude : ((d.natAbs / v.natAbs : Nat) : Int) = Int.tdiv d.natAbs v.natAbs := Int.ofNat_tdiv _ _
  unfold signedQuotient
  rw [magnitude]
  obtain hd | hd := Int.lt_or_le d 0 <;> obtain hv | hv := Int.lt_or_le v 0
  · rw [Int.ofNat_natAbs_of_nonpos hd.le, Int.ofNat_natAbs_of_nonpos hv.le, Int.neg_tdiv_neg]
    simp [hd, hv]
  · rw [Int.ofNat_natAbs_of_nonpos hd.le, Int.natAbs_of_nonneg hv, Int.neg_tdiv]
    simp [hd, Int.not_lt.2 hv]
  · rw [Int.natAbs_of_nonneg hd, Int.ofNat_natAbs_of_nonpos hv.le, Int.tdiv_neg]
    simp [Int.not_lt.2 hd, hv]
  · rw [Int.natAbs_of_nonneg hd, Int.natAbs_of_nonneg hv]
    simp [Int.not_lt.2 hd, Int.not_lt.2 hv]

theorem aluDivide_of_ne_zero (high : Word) (low : Aux) {d : Word} (h : d.toInt ≠ 0) :
    aluDivide high low d = (wordOfInt (Int.tdiv (doubleLength high low) d.toInt), false) := by
  rw [aluDivide, if_neg h, signedQuotient_eq_tdiv]

theorem aluDivide_of_zero (high : Word) (low : Aux) {d : Word} (h : d.toInt = 0) :
    aluDivide high low d = (high, true) := if_pos h

/-- Settles O29: the two branches of `aluDivide`. -/
theorem divideTruncatesTowardZero : Obligations.DivideTruncatesTowardZero :=
  fun high low _ => ⟨aluDivide_of_ne_zero high low, aluDivide_of_zero high low⟩

theorem exec_op56 (n : Addr) (s : State) : exec (.op56 n) s = .next (divideLong n s) := rfl

/-- Settles O40: with the quotient of a non-zero divisor no overflow is indicated, with a zero divisor one is. -/
theorem divideInstruction : Obligations.DivideInstruction := by
  intro n s
  rw [exec_op56]
  constructor
  · intro h
    have quotient := aluDivide_of_ne_zero s.acc s.aux (BitVec.toInt_ne.2 h)
    obtain ⟨-, overflow⟩ | ⟨ran, -⟩ := divideLong_cases n s
    · simp [operand, quotient] at overflow
    · rw [ran, operand, quotient]
  · intro h
    have zeroDivisor := aluDivide_of_zero s.acc s.aux (d := memRead s n) (by rw [h]; rfl)
    obtain ⟨ran, -⟩ | ⟨-, noOverflow⟩ := divideLong_cases n s
    · rw [ran]
    · simp [operand, zeroDivisor] at noOverflow

end Sys2Proof.Machine
end

section
/-! # Shifts (spec/40_alu.md R420 to R424, spec/48_group6_float.md R856)

The right shifts by their values; the left shifts by their patterns, and their overflow by the bits that pass through
the sign position: `signChangesDuring_eq_false_iff`. -/

namespace Sys2Proof.Machine

open Host

/-! ## Right shifts -/

theorem doubleLength_inside (a : Word) (r : Aux) : -2 ^ 76 ≤ doubleLength a r ∧ doubleLength a r < 2 ^ 76 := by
  rw [← doublePattern_toInt]
  exact ⟨BitVec.le_toInt _, BitVec.toInt_lt⟩

/-- A value that fits a pair is its quotient and its remainder by 2^38 (R9). -/
theorem doubleLength_of_ediv {v : Int} (low : -2 ^ 76 ≤ v) (high : v < 2 ^ 76) :
    doubleLength (wordOfInt (v / ((2 ^ 38 : Nat) : Int))) (BitVec.ofInt 38 v) = v := by
  rw [doubleLength, wordOfInt_toInt (by omega), BitVec.toNat_ofInt]
  omega

/-- Floor division by a power of two does not leave a range around 0. -/
theorem ediv_two_pow_inside {v m : Int} (k : Nat) (low : -m ≤ v) (high : v < m) :
    -m ≤ v / ((2 ^ k : Nat) : Int) ∧ v / ((2 ^ k : Nat) : Int) < m := by
  have positive : (0 : Int) < ((2 ^ k : Nat) : Int) := by positivity
  have scaled : m ≤ m * ((2 ^ k : Nat) : Int) := le_mul_of_one_le_right (by omega) positive
  constructor
  · rw [Int.le_ediv_iff_mul_le positive, Int.neg_mul]
    omega
  · rw [Int.ediv_lt_iff_lt_mul positive]
    omega

/-- Settles O30: the floored double-length value fits a pair again, and a logical shift divides the pattern. -/
theorem rightShiftIsFloorDivision : Obligations.RightShiftIsFloorDivision := by
  intro a r k
  constructor
  · obtain ⟨low, high⟩ := doubleLength_inside a r
    obtain ⟨low', high'⟩ := ediv_two_pow_inside k low high
    exact doubleLength_of_ediv low' high'
  · rw [shiftRightLogical, BitVec.toNat_ushiftRight, Nat.shiftRight_eq_div_pow]

/-! ## The value of a left shift -/

/-- A left shift multiplies the pattern, and drops what passes the top (R422, R423, R424). -/
theorem toNat_shiftLeft_eq_mul {w : Nat} (v : BitVec w) (k : Nat) : (v <<< k).toNat = v.toNat * 2 ^ k % 2 ^ w := by
  rw [BitVec.toNat_shiftLeft, Nat.shiftLeft_eq]

theorem doublePattern_shiftLeftDouble (a : Word) (r : Aux) (k : Nat) :
    doublePattern (shiftLeftDouble a r k).1 (shiftLeftDouble a r k).2.1 = doublePattern a r <<< k :=
  doublePattern_splitDouble _

/-! ## The overflow of a left shift -/

theorem signChangesDuring_succ {w : Nat} (v : BitVec w) (k : Nat) :
    signChangesDuring v (k + 1) = (signChangesDuring v k || v.getMsbD (k + 1) != v.getMsbD k) := by
  simp [signChangesDuring, List.range_succ]

/-- The sign never changes exactly when every bit that comes to the sign position equals the sign (R422, R423). -/
theorem signChangesDuring_eq_false_iff {w : Nat} (v : BitVec w) (k : Nat) :
    signChangesDuring v k = false ↔ ∀ j ≤ k, v.getMsbD j = v.getMsbD 0 := by
  induction k with
  | zero => simp [signChangesDuring]
  | succ k ih =>
    rw [signChangesDuring_succ, Bool.or_eq_false_iff, ih, bne_eq_false_iff_eq]
    constructor
    · rintro ⟨equal, next⟩ j hj
      obtain hj | rfl := Nat.le_succ_iff.1 hj
      · exact equal j hj
      · exact next.trans (equal k le_rfl)
    · intro equal
      exact ⟨fun j hj => equal j (by omega), (equal _ le_rfl).trans (equal k (by omega)).symm⟩

/-- A shift by less than the width overflows when one of the bits below the sign that reach it differs from it. -/
theorem signChangesDuring_iff_getLsbD {w k : Nat} (v : BitVec (w + 1)) (short : k ≤ w) :
    signChangesDuring v k = true ↔ ∃ j, 1 ≤ j ∧ j ≤ k ∧ v.getLsbD (w - j) ≠ v.getLsbD w := by
  have bit : ∀ j ≤ k, v.getMsbD j = v.getLsbD (w - j) := fun j hj => by
    simp [BitVec.getMsbD_eq_getLsbD, show j < w + 1 by omega]
  have equal_iff := signChangesDuring_eq_false_iff v k
  rw [bit 0 (by omega), Nat.sub_zero] at equal_iff
  rw [← Bool.not_eq_false, equal_iff]
  push Not
  constructor
  · rintro ⟨j, hj, differs⟩
    rw [bit j hj] at differs
    refine ⟨j, Nat.pos_of_ne_zero ?_, hj, differs⟩
    rintro rfl
    exact differs rfl
  · rintro ⟨j, -, hj, differs⟩
    exact ⟨j, hj, bit j hj ▸ differs⟩

/-- A shift by the width or more brings zeros to the sign position, so it overflows for every pattern but 0. -/
theorem signChangesDuring_iff_ne_zero {w k : Nat} (v : BitVec w) (long : w ≤ k) :
    signChangesDuring v k = true ↔ v ≠ 0 := by
  rw [← Bool.not_eq_false, signChangesDuring_eq_false_iff]
  refine not_congr ⟨fun equal => ?_, ?_⟩
  · have sign : v.getMsbD 0 = false := (equal k le_rfl).symm.trans (BitVec.getMsbD_of_ge v k long)
    exact BitVec.eq_of_getMsbD_eq fun j hj => by
      rw [equal j (by omega), sign]
      exact BitVec.getMsbD_zero.symm
  · rintro rfl j -
    exact BitVec.getMsbD_zero.trans BitVec.getMsbD_zero.symm

/-- Settles O31: the pattern is shifted as a whole, and its overflow is the sign-change test. -/
theorem doubleLeftShiftValueAndOverflow : Obligations.DoubleLeftShiftValueAndOverflow := by
  intro a r k v d
  refine ⟨?_, signChangesDuring_iff_getLsbD v, signChangesDuring_iff_ne_zero v⟩
  rw [doublePattern_shiftLeftDouble]
  exact toNat_shiftLeft_eq_mul v k

/-! ## A left shift without overflow -/

/-- One place to the left doubles a word whose top two bits agree (R423). -/
theorem toInt_shiftLeft_one {a : Word} (agree : a.getMsbD 1 = a.getMsbD 0) : (a <<< 1).toInt = a.toInt * 2 := by
  have top : a.getMsbD 0 = decide (2 ^ 38 ≤ a.toNat) := (BitVec.msb_eq_getMsbD_zero a).symm.trans (BitVec.msb_eq_decide a)
  have next : a.getMsbD 1 = decide (a.toNat / 2 ^ 37 % 2 = 1) := by
    simp [BitVec.getMsbD_eq_getLsbD, BitVec.getLsbD, Nat.testBit_eq_decide_div_mod_eq]
  rw [next, top, decide_eq_decide] at agree
  have range := a.isLt
  rw [BitVec.toInt_eq_toNat_cond, BitVec.toInt_eq_toNat_cond, toNat_shiftLeft_eq_mul]
  split <;> split <;> omega

/-- A left shift without a change of sign multiplies the value exactly, place by place (R423). -/
theorem toInt_shiftLeft_of_sign_kept {a : Word} {k : Nat} (kept : signChangesDuring a k = false) :
    (a <<< k).toInt = a.toInt * ((2 ^ k : Nat) : Int) := by
  induction k with
  | zero => simp
  | succ k ih =>
    rw [signChangesDuring_succ, Bool.or_eq_false_iff, bne_eq_false_iff_eq] at kept
    obtain ⟨before, next⟩ := kept
    have agree : (a <<< k).getMsbD 1 = (a <<< k).getMsbD 0 := by
      rwa [BitVec.getMsbD_shiftLeft, BitVec.getMsbD_shiftLeft, Nat.zero_add, Nat.add_comm]
    rw [BitVec.shiftLeft_add, toInt_shiftLeft_one agree, ih before, Nat.pow_succ, Nat.cast_mul, Int.mul_assoc]
    rfl

/-- Settles O32: the rules of the value and of the overflow at width 39. -/
theorem singleLeftShiftValueAndOverflow : Obligations.SingleLeftShiftValueAndOverflow := fun a k =>
  ⟨toNat_shiftLeft_eq_mul a k, signChangesDuring_iff_getLsbD a, signChangesDuring_iff_ne_zero a,
    fun _ => toInt_shiftLeft_of_sign_kept⟩

/-! ## The instruction 65 -/

theorem floatOrShift_float (p : Config.Params) {n : Addr} (s : State) (h : n.toNat = 4096) :
    floatOrShift p n s = floatResult ((floatUnit p).ffix s.acc) s := if_pos (decide_eq_true h)

theorem floatOrShift_shift (p : Config.Params) {n : Addr} (s : State) (h : n.toNat ≠ 4096) :
    floatOrShift p n s = { s with acc := shiftLeftFast s.acc n, pc := s.pc + 1 } := if_neg (mt of_decide_eq_true h)

theorem execWith_op65 (p : Config.Params) (n : Addr) (s : State) :
    (n.toNat = 4096 →
      execWith p (.op65 n) s =
        .next { s with
          acc := ((floatUnit p).ffix s.acc).1, ovr := s.ovr || ((floatUnit p).ffix s.acc).2, pc := s.pc + 1 }) ∧
    (n.toNat ≠ 4096 →
      ∃ t : State, execWith p (.op65 n) s = .next t ∧ t.acc.toNat = s.acc.toNat * 2 ^ (n.toNat % 64) % 2 ^ 39 ∧
        t = { s with acc := t.acc, pc := s.pc + 1 }) :=
  ⟨fun h => congrArg Outcome.next (floatOrShift_float p s h), fun h =>
    ⟨_, congrArg Outcome.next (floatOrShift_shift p s h), toNat_shiftLeft_eq_mul _ _, rfl⟩⟩

/-- Settles O43: the two branches of 65, and `exec` is the machine's own configuration. -/
theorem fastShiftOrIntegerToFloat : Obligations.FastShiftOrIntegerToFloat :=
  ⟨exec_eq ▸ execWith_op65 params, execWith_op65⟩

end Sys2Proof.Machine
end

section
/-! # Who writes the store, and group 0, which does not (spec/20_memory.md R204, spec/41_group0_accumulator.md R500) -/

namespace Sys2Proof.Machine

open Host

/-- Only the forms that store a word write the store, and only at N (R550, R600, R650, R904). -/
theorem Effect.store_eq {p : Config.Params} {i : Instr} {s t : State} (e : Effect p i s t) :
    t.store = s.store ∨ (storesWord i ∧ ∀ a : Nat, a ≠ i.addr.toNat → t.store.read a = s.store.read a) := by
  cases e with
  | store v _ _ form => exact .inr ⟨form, fun a ha => Memory.read_write_other s.store i.addr.toNat a v ha⟩
  | compute | double | fallThrough | overflowJump | selfJump | jump | readGenerator | readHold | readByte | punchHold
  | punchByte | unimplemented => exact .inl rfl

/-- Settles O24, by the form of the instruction. -/
theorem storeWrittenOnlyAtOperandAddress : Obligations.StoreWrittenOnlyAtOperandAddress :=
  ⟨fun _ _ _ h => (effect_of_exec h).store_eq, fun _ _ _ _ h => (effect_of_execWith h).store_eq⟩

/-- The next state that the common rule of group 0 gives, with the operand read through the data path (R500). -/
theorem next_accumulate (op : AluOp) (n : Addr) (s : State) :
    (Outcome.next (accumulate op n s) : Outcome State Fault Refusal) =
      .next { s with
        acc := (aluApply op s.acc s.acc (memRead s n)).1
        ovr := s.ovr || (aluApply op s.acc s.acc (memRead s n)).2
        pc := s.pc + 1 } :=
  congrArg Outcome.next (accumulate_eq op n s)

/-- Settles O33: each of 00 to 07 is the common rule of the group with its own ALU operation. -/
theorem groupZeroWritesAluResultToA : Obligations.GroupZeroWritesAluResultToA := fun n s =>
  ⟨next_accumulate .noop n s, next_accumulate .negate n s, next_accumulate .increment n s,
    next_accumulate .collate n s, next_accumulate .add n s, next_accumulate .subtract n s,
    next_accumulate .clear n s, next_accumulate .negateAdd n s⟩

end Sys2Proof.Machine
end

section
/-! # Group 1, which stores A and replaces it (spec/42_group1_exchange.md R550) -/

namespace Sys2Proof.Machine

open Host

/-- The frame shared by all instructions that store a word: whatever they put in A, OVR and pc, one word of the store is
written and the rest of the state is kept (R550, R600, R650, R904). -/
theorem storing_update_frame {s : State} (wf : s.store.wf = true) (n : Addr) (v a : Word) (o : Bool) (next : HalfAddr) :
    let t : State := { s with acc := a, ovr := o, pc := next, store := s.store.write n.toNat v }
    storedOnly s t n v ∧ restUnchanged s t :=
  ⟨storedOnly_of_write s _ n v wf rfl, rfl, rfl, rfl, rfl, rfl, rfl, rfl, rfl⟩

/-- The next state that the common rule of group 1 gives, with the old word N read through the data path before the old
A is stored there (R550). -/
theorem next_exchange (op : AluOp) (n : Addr) {s : State} (wf : s.store.wf = true) :
    ∃ t : State, (Outcome.next (exchange op n s) : Outcome State Fault Refusal) = .next t ∧
      t.acc = (aluApply op s.acc (memRead s n) (memRead s n)).1 ∧
      t.ovr = (s.ovr || (aluApply op s.acc (memRead s n) (memRead s n)).2) ∧
      t.pc = s.pc + 1 ∧ storedOnly s t n s.acc ∧ restUnchanged s t :=
  ⟨_, congrArg Outcome.next (exchange_eq op n s), rfl, rfl, rfl, storing_update_frame wf n s.acc _ _ _⟩

/-- Settles O34: each of 10 to 17 is the common rule of the group with its own ALU operation. -/
theorem groupOneExchanges : Obligations.GroupOneExchanges := fun n _ wf =>
  ⟨next_exchange .noop n wf, next_exchange .negate n wf, next_exchange .increment n wf,
    next_exchange .collate n wf, next_exchange .add n wf, next_exchange .subtract n wf,
    next_exchange .clear n wf, next_exchange .negateAdd n wf⟩

end Sys2Proof.Machine
end

section
/-! # Group 2, which stores the result and keeps A (spec/43_group2_store.md R600) -/

namespace Sys2Proof.Machine

open Host

/-- The next state that the common rule of group 2 gives, with the old word N read through the data path before the
result is stored there (R600). -/
theorem next_storeBack (op : AluOp) (n : Addr) {s : State} (wf : s.store.wf = true) :
    ∃ t : State, (Outcome.next (storeBack op n s) : Outcome State Fault Refusal) = .next t ∧
      t.acc = s.acc ∧
      t.ovr = (s.ovr || (aluApply op s.acc s.acc (memRead s n)).2) ∧
      t.pc = s.pc + 1 ∧ storedOnly s t n (aluApply op s.acc s.acc (memRead s n)).1 ∧ restUnchanged s t :=
  ⟨_, congrArg Outcome.next (storeBack_eq op n s), rfl, rfl, rfl, storing_update_frame wf n _ s.acc _ _⟩

/-- Settles O35: each of 20 to 27 is the common rule of the group with its own ALU operation. -/
theorem groupTwoStoresAluResult : Obligations.GroupTwoStoresAluResult := fun n _ wf =>
  ⟨next_storeBack .noop n wf, next_storeBack .negate n wf, next_storeBack .increment n wf,
    next_storeBack .collate n wf, next_storeBack .add n wf, next_storeBack .subtract n wf,
    next_storeBack .clear n wf, next_storeBack .negateAdd n wf⟩

end Sys2Proof.Machine
end

section
/-! # Group 3, which stores the result and replaces A by the old word (spec/44_group3_replace.md R650) -/

namespace Sys2Proof.Machine

open Host

/-- The next state that the common rule of group 3 gives: the old word N, read through the data path before the result
is stored there, becomes A (R650). -/
theorem next_replace (op : AluOp) (n : Addr) {s : State} (wf : s.store.wf = true) :
    ∃ t : State, (Outcome.next (replace op n s) : Outcome State Fault Refusal) = .next t ∧
      t.acc = memRead s n ∧
      t.ovr = (s.ovr || (aluApply op s.acc (memRead s n) (memRead s n)).2) ∧
      t.pc = s.pc + 1 ∧ storedOnly s t n (aluApply op s.acc (memRead s n) (memRead s n)).1 ∧ restUnchanged s t :=
  ⟨_, congrArg Outcome.next (replace_eq op n s), rfl, rfl, rfl, storing_update_frame wf n _ _ _ _⟩

/-- Settles O36: each of 30 to 37 is the common rule of the group with its own ALU operation. -/
theorem groupThreeReplaces : Obligations.GroupThreeReplaces := fun n _ wf =>
  ⟨next_replace .noop n wf, next_replace .negate n wf, next_replace .increment n wf,
    next_replace .collate n wf, next_replace .add n wf, next_replace .subtract n wf,
    next_replace .clear n wf, next_replace .negateAdd n wf⟩

end Sys2Proof.Machine
end

section
/-! # Group 4, the transfers (spec/45_group4_transfer.md R700 to R709) -/

namespace Sys2Proof.Machine

open Host

/-! ## The targets as numbers and the conditions on A -/

theorem firstHalfOf_eq_ofNat (n : Addr) : firstHalfOf n = BitVec.ofNat 14 (n.toNat * 2) := by
  rw [← firstHalfOf_toNat, BitVec.ofNat_toNat, BitVec.setWidth_eq]

theorem secondHalfOf_eq_ofNat (n : Addr) : secondHalfOf n = BitVec.ofNat 14 (n.toNat * 2 + 1) := by
  rw [← secondHalfOf_toNat, BitVec.ofNat_toNat, BitVec.setWidth_eq]

theorem transferTaken_always (s : State) : transferTaken .always s = true ↔ True := iff_of_true rfl trivial

/-- The sign bit, which the machine tests, is set exactly in the negative words (R703, R707). -/
theorem transferTaken_negative (s : State) : transferTaken .negative s = true ↔ s.acc.toInt < 0 := by
  have sign : transferTaken .negative s = s.acc.msb := (BitVec.msb_eq_getLsbD_last s.acc).symm
  rw [sign, BitVec.msb_eq_toInt, decide_eq_true_iff]

/-- Only the zero word has the value 0 (R704, R708). -/
theorem transferTaken_zero (s : State) : transferTaken .zero s = true ↔ s.acc.toInt = 0 :=
  decide_eq_true_iff.trans (BitVec.toInt_inj.symm.trans (by rw [show (0 : Word).toInt = 0 from rfl]))

/-! ## The common rule, apart for the plain conditions and for OVR -/

/-- The next state that the common rule gives for a condition that is not OVR, where `taken` says when the condition
holds (R700, R701). -/
theorem next_transfer {c : TransferCond} (plain : c ≠ .overflow) {s : State} {taken : Prop} [Decidable taken]
    (cond : transferTaken c s = true ↔ taken) {target goal : HalfAddr} (there : target = goal) :
    (Outcome.next (transfer c target s) : Outcome State Fault Refusal) =
      .next (if taken then
          if goal = s.pc then { s with mode := .stop, trace := s.trace ++ [.halted .selfJump] }
          else { s with pc := goal }
        else { s with pc := s.pc + 1 }) := by
  subst there
  obtain ⟨fall, h⟩ | ⟨-, overflow, -⟩ | ⟨go, -, self, h⟩ | ⟨go, -, away, h⟩ := transfer_cases c target s
  · have untaken : ¬ taken := fun yes => Bool.false_ne_true (fall.symm.trans (cond.2 yes))
    rw [h, if_neg untaken, advance_eq]
  · exact absurd overflow plain
  · rw [h, if_pos (cond.1 go), if_pos self, halt_eq]
  · rw [h, if_pos (cond.1 go), if_neg away]

/-- A transfer on a set OVR clears it and goes, to its own half-word too (R701, R705, R709). -/
theorem next_transfer_overflow_set {s : State} (up : s.ovr = true) {target goal : HalfAddr} (there : target = goal) :
    (Outcome.next (transfer .overflow target s) : Outcome State Fault Refusal) =
      .next { s with ovr := false, pc := goal } := by
  subst there
  obtain ⟨clear, -⟩ | ⟨-, -, h⟩ | ⟨-, plain, -⟩ | ⟨-, plain, -⟩ := transfer_cases .overflow target s
  · exact absurd (clear.symm.trans up) Bool.false_ne_true
  · rw [h]
  · exact absurd rfl plain
  · exact absurd rfl plain

/-- A transfer on a clear OVR falls through (R700). -/
theorem next_transfer_overflow_clear {s : State} (clear : s.ovr = false) (target : HalfAddr) :
    (Outcome.next (transfer .overflow target s) : Outcome State Fault Refusal) = .next { s with pc := s.pc + 1 } := by
  obtain ⟨-, h⟩ | ⟨up, -⟩ | ⟨up, -⟩ | ⟨up, -⟩ := transfer_cases .overflow target s
  · rw [h, advance_eq]
  all_goals exact absurd (clear.symm.trans up) Bool.false_ne_true

/-- Settles O37: each of the six is the common rule with its own condition and half of N. -/
theorem conditionalTransfersGoOrHalt : Obligations.ConditionalTransfersGoOrHalt := fun n s =>
  have first := firstHalfOf_eq_ofNat n
  have second := secondHalfOf_eq_ofNat n
  ⟨next_transfer (by decide) (transferTaken_always s) first, next_transfer (by decide) (transferTaken_negative s) first,
    next_transfer (by decide) (transferTaken_zero s) first, next_transfer (by decide) (transferTaken_always s) second,
    next_transfer (by decide) (transferTaken_negative s) second, next_transfer (by decide) (transferTaken_zero s) second⟩

/-- Settles O38: 43 and 47 are the common rule with OVR as its condition. -/
theorem overflowTransfersClearTheFlag : Obligations.OverflowTransfersClearTheFlag := fun n _ =>
  ⟨fun up => ⟨next_transfer_overflow_set up (firstHalfOf_eq_ofNat n),
      next_transfer_overflow_set up (secondHalfOf_eq_ofNat n)⟩,
    fun clear => ⟨next_transfer_overflow_clear clear _, next_transfer_overflow_clear clear _⟩⟩

end Sys2Proof.Machine
end

section
/-! # Group 5, the shifts, the multiplies and the copy of AR (spec/46_group5_shift_muldiv.md R750 to R756, R758) -/

namespace Sys2Proof.Machine

open Host

/-! ## The shifts and the multiplies -/

/-- The next state of 50 to 53, which write A:AR and keep OVR (R751 to R754). -/
theorem next_setDouble (s : State) (d : Word × Aux) :
    (Outcome.next (advance (setDouble s d)) : Outcome State Fault Refusal) =
      .next { s with acc := d.1, aux := d.2, pc := s.pc + 1 } := by
  rw [setDouble_eq, advance_eq]

/-- The next state of 54 and 55, which write A:AR and OR their overflow into OVR (R755, R756). -/
theorem next_setDouble_orOvr (s : State) (d : Word × Aux) (o : Bool) :
    (Outcome.next (advance (orOvr (setDouble s d) o)) : Outcome State Fault Refusal) =
      .next { s with acc := d.1, aux := d.2, ovr := s.ovr || o, pc := s.pc + 1 } := by
  rw [setDouble_eq, orOvr_eq, advance_eq]

/-- The rounding adds one exactly when the top bit of the low part is set (R754). -/
theorem roundProduct_eq (m : Word × Aux) :
    roundProduct m = wordOfInt (m.1.toInt + (if m.2.getLsbD 37 then 1 else 0)) := by
  rw [roundProduct]
  cases m.2.getLsbD 37 <;> rfl

/-- Settles O39: each of 50 to 55 writes A:AR with its own ALU result, and `exec` is the machine's own configuration. -/
theorem shiftsAndMultipliesWriteDoubleLength : Obligations.ShiftsAndMultipliesWriteDoubleLength := by
  unfold Obligations.ShiftsAndMultipliesWriteDoubleLength
  intro holds
  have underEvery : ∀ p, holds (execWith p) p := fun p n s =>
    have rounded := roundProduct_eq (aluMultiply s.acc (operand s n))
    ⟨next_setDouble s _, next_setDouble s (_, 0), next_setDouble s _, rounded ▸ next_setDouble s (_, 0),
      next_setDouble_orOvr s (_, _) _, next_setDouble_orOvr s (_, 0) _⟩
  exact ⟨exec_eq ▸ underEvery params, underEvery⟩

/-! ## The copy of AR -/

/-- The sign bit of the copied word is 0, so its value is the unsigned value of AR (R9, R758). -/
theorem wordOfAux_toInt (r : Aux) : (wordOfAux r).toInt = (r.toNat : Int) := by
  have small := r.isLt
  rw [wordOfAux, BitVec.toInt_setWidth, Int.bmod_eq_of_le (by omega) (by omega)]

theorem copyAux_eq (s : State) : copyAux s = { s with acc := wordOfAux s.aux, pc := s.pc + 1 } := rfl

/-- Settles O41: A is the zero-extended AR. -/
theorem copyOfAuxiliaryRegister : Obligations.CopyOfAuxiliaryRegister := fun _ s =>
  ⟨_, congrArg Outcome.next (copyAux_eq s), wordOfAux_toInt s.aux, rfl⟩

end Sys2Proof.Machine
end

section
/-! # The loops of Standardise and the form of its result (spec/47_fpu.md R802 to R806)

`shrinkCell_ends` and `normaliseCell_ends_of_inCell` say once how the two loops end. `standardiseResult_form` draws from
them everything a result that is not zero can be; the statements about floats go through it. -/

namespace Sys2Proof.Machine

/-! ## The halving loop -/

/-- Division by a doubled number takes the low bit off first. -/
theorem ediv_two_ediv (c : Int) (d : Nat) : c / 2 / (d : Int) = c / ((2 * d : Nat) : Int) := by
  rw [Int.ediv_ediv_of_nonneg (by omega)]
  push_cast
  rfl

/-- The remainder that goes with `ediv_two_ediv`: the low bit, and twice the remainder of the half. -/
theorem emod_two_mul (c : Int) (d : Nat) : c % ((2 * d : Nat) : Int) = 2 * (c / 2 % (d : Int)) + c % 2 := by
  have whole := Int.mul_ediv_add_emod c ((2 * d : Nat) : Int)
  have half := Int.mul_ediv_add_emod (c / 2) (d : Int)
  rw [← ediv_two_ediv] at whole
  push_cast at whole ⊢
  rw [Int.mul_assoc] at whole
  omega

/-- The bits lost by halving j + 1 times are the low bit and those the half loses. -/
theorem lowBit_or_emod (c : Int) (d : Nat) :
    (cellBit c 0 || decide (c / 2 % (d : Int) ≠ 0)) = decide (c % ((2 * d : Nat) : Int) ≠ 0) := by
  have low : cellBit c 0 = decide (c % 2 = 1) := by simp [cellBit]
  rw [emod_two_mul, low, ← Bool.decide_or, decide_eq_decide]
  omega

/-- With enough passes, halving ends in the cell at the floored quotient by a power of two (R805). -/
theorem shrinkCell_spec (fuel : Nat) (c e : Int) (sticky : Bool) (low : -(2 ^ fuel : Int) ≤ c) (high : c < 2 ^ fuel)
    (nonzero : c ≠ 0) :
    ∃ j : Nat, (inCell c = true → j = 0) ∧ inCell (c / ((2 ^ j : Nat) : Int)) = true ∧
      c / ((2 ^ j : Nat) : Int) ≠ 0 ∧
      shrinkCell fuel c e sticky =
        (c / ((2 ^ j : Nat) : Int), e + (j : Int), sticky || decide (c % ((2 ^ j : Nat) : Int) ≠ 0)) := by
  induction fuel generalizing c e sticky with
  | zero =>
    have inside : inCell c = true := by rw [inCell_iff]; omega
    exact ⟨0, fun _ => rfl, by simpa using inside, by simpa using nonzero, by simp [shrinkCell]⟩
  | succ fuel ih =>
    by_cases inside : inCell c = true
    · exact ⟨0, fun _ => rfl, by simpa using inside, by simpa using nonzero, by simp [shrinkCell_inCell, inside]⟩
    · have outside := mt (inCell_iff c).2 inside
      rw [pow_succ] at low high
      obtain ⟨j, -, ends, stays, loop⟩ :=
        ih (c / 2) (e + 1) (sticky || cellBit c 0) (by omega) (by omega) (by omega)
      rw [ediv_two_ediv, ← Nat.pow_succ'] at ends stays
      refine ⟨j + 1, fun h => absurd h inside, ends, stays, ?_⟩
      rw [shrinkCell, if_neg inside, loop, Bool.or_assoc, lowBit_or_emod, ediv_two_ediv, ← Nat.pow_succ']
      congr 2
      push_cast
      ring

/-- The first loop of R805 ends within the bound `standardiseResult` gives it. -/
theorem shrinkCell_ends {c : Int} (nonzero : c ≠ 0) (e : Int) :
    ∃ j : Nat, (inCell c = true → j = 0) ∧ inCell (c / ((2 ^ j : Nat) : Int)) = true ∧
      c / ((2 ^ j : Nat) : Int) ≠ 0 ∧
      shrinkCell (c.natAbs.log2 + 1) c e false =
        (c / ((2 ^ j : Nat) : Int), e + (j : Int), decide (c % ((2 ^ j : Nat) : Int) ≠ 0)) := by
  have bound : (c.natAbs : Int) < 2 ^ (c.natAbs.log2 + 1) := by exact_mod_cast Nat.lt_log2_self
  exact shrinkCell_spec _ c e false (by omega) (by omega) nonzero

/-! ## The doubling loop -/

/-- The second loop of R805 ends within 63 passes for every value in the cell but 0. -/
theorem normaliseCell_ends_of_inCell {c : Int} (inside : inCell c = true) (nonzero : c ≠ 0) (e : Int) :
    ∃ k : Nat, k ≤ 63 ∧ inCell (c * ((2 ^ k : Nat) : Int)) = true ∧
      cellBit (c * ((2 ^ k : Nat) : Int)) 63 ≠ cellBit (c * ((2 ^ k : Nat) : Int)) 62 ∧
      normaliseCell 63 c e = (c * ((2 ^ k : Nat) : Int), e - (k : Int)) := by
  obtain ⟨k, loop, ends, differ⟩ := normaliseCell_ends 63 c e inside (by omega)
  refine ⟨k, ?_, ends, differ, loop⟩
  have size : 2 ^ k ≤ (c * ((2 ^ k : Nat) : Int)).natAbs := by
    rw [Int.natAbs_mul, Int.natAbs_natCast]
    exact Nat.le_mul_of_pos_left _ (by omega)
  rw [inCell_iff] at ends
  exact (Nat.pow_le_pow_iff_right (by decide)).1 (show 2 ^ k ≤ 2 ^ 63 by omega)

/-- Settles O54, by the ends of the two loops. -/
theorem standardiseLoopsEndInTheCell : Obligations.StandardiseLoopsEndInTheCell := by
  intro c e nonzero
  obtain ⟨j, unhalved, inside, stays, halving⟩ := shrinkCell_ends nonzero e
  obtain ⟨k, few, ends, differ, doubling⟩ := normaliseCell_ends_of_inCell inside stays (e + j)
  simp only [halving, doubling]
  exact ⟨inside, ⟨j, unhalved, rfl, rfl, decide_eq_true_iff⟩, differ, ends, k, few, rfl, rfl⟩

/-! ## The mantissa -/

/-- The mantissas whose top two bits differ (R802). -/
def normalMantissa (m : Int) : Prop := (268435456 ≤ m ∧ m < 536870912) ∨ (-536870912 ≤ m ∧ m < -268435456)

theorem normalMantissa.bounds {m : Int} (h : normalMantissa m) : -536870912 ≤ m ∧ m < 536870912 := by
  unfold normalMantissa at h
  omega

theorem normalMantissa.toInt_ofInt {m : Int} (h : normalMantissa m) : (BitVec.ofInt 30 m).toInt = m := by
  obtain ⟨low, high⟩ := h.bounds
  exact BitVec.toInt_ofInt_eq_self (by decide) (by omega) (by omega)

/-- The mantissa that the epsilon rounding of R805 takes from a cell value, with bits lost or not. -/
def roundedMantissa (n : Int) (lost : Bool) : Int :=
  (if n % ((2 ^ 34 : Nat) : Int) ≠ 0 ∨ lost = true then setEpsilon n else n) / ((2 ^ 34 : Nat) : Int)

/-- The epsilon rounding keeps the form and the sign of a cell value whose top bits differ. -/
theorem roundedMantissa_normal {n : Int} (lost : Bool) (inside : inCell n = true) (differ : cellBit n 63 ≠ cellBit n 62) :
    normalMantissa (roundedMantissa n lost) ∧ (roundedMantissa n lost < 0 ↔ n < 0) := by
  rw [ne_eq, topBits_equal_iff n inside] at differ
  rw [inCell_iff] at inside
  have epsilon : setEpsilon n = if n / 17179869184 % 2 = 1 then n else n + 17179869184 := by
    simp [setEpsilon, cellBit]
  unfold normalMantissa roundedMantissa
  rw [epsilon]
  norm_num
  split
  · split <;> omega
  · omega

/-- Without bits to lose nothing is rounded. -/
theorem roundedMantissa_exact (m : Int) : roundedMantissa (m * 17179869184) false = m := by
  simp [roundedMantissa]

/-- Everything `standardiseResult` does to a value that is not 0 (R805): j halvings, k doublings and the rounding. -/
theorem standardiseResult_form {c : Int} (nonzero : c ≠ 0) (e : Int) :
    ∃ (j k : Nat) (n : Int), (inCell c = true → j = 0) ∧ k ≤ 63 ∧
      n = c / ((2 ^ j : Nat) : Int) * ((2 ^ k : Nat) : Int) ∧ (n < 0 ↔ c < 0) ∧
      inCell n = true ∧ cellBit n 63 ≠ cellBit n 62 ∧
      standardiseResult c e =
        ⟨BitVec.ofInt 30 (roundedMantissa n (decide (c % ((2 ^ j : Nat) : Int) ≠ 0))), e + (j : Int) - (k : Int)⟩ := by
  obtain ⟨j, unhalved, inside, stays, halving⟩ := shrinkCell_ends nonzero e
  obtain ⟨k, few, ends, differ, doubling⟩ := normaliseCell_ends_of_inCell inside stays (e + j)
  refine ⟨j, k, _, unhalved, few, rfl, ?_, ends, differ, ?_⟩
  · have down : (0 : Int) < ((2 ^ j : Nat) : Int) := by positivity
    have up : (0 : Int) < ((2 ^ k : Nat) : Int) := by positivity
    have sign := Int.ediv_nonneg_iff_of_pos (a := c) down
    rw [mul_neg_iff]
    omega
  · unfold standardiseResult
    rw [if_neg nonzero]
    simp only [halving, doubling, roundedMantissa]

/-- The mantissa of the result, rounded or not, is in normal form and has the value's sign (R802, R805). -/
theorem standardiseResult_normal {c : Int} (nonzero : c ≠ 0) (e : Int) :
    ∃ m E : Int, standardiseResult c e = ⟨BitVec.ofInt 30 m, E⟩ ∧ normalMantissa m ∧ (m < 0 ↔ c < 0) := by
  obtain ⟨j, k, n, -, -, -, sign, inside, differ, result⟩ := standardiseResult_form nonzero e
  obtain ⟨normal, kept⟩ := roundedMantissa_normal (decide (c % ((2 ^ j : Nat) : Int) ≠ 0)) inside differ
  exact ⟨_, _, result, normal, kept.trans sign⟩

/-! ## The word -/

/-- The top two bits of a word are those of its mantissa (R800, R802). -/
theorem topBits_differ_iff (w : Word) : w.getLsbD 38 ≠ w.getLsbD 37 ↔ normalMantissa (mantissa w) := by
  have top : w.getLsbD 38 = (w.extractLsb' 9 30).getLsbD 29 := by simp
  have next : w.getLsbD 37 = (w.extractLsb' 9 30).getLsbD 28 := by simp
  rw [top, next, mantissa, normalMantissa]
  generalize w.extractLsb' 9 30 = m
  have range := m.isLt
  rw [BitVec.toInt_eq_toNat_cond]
  simp only [BitVec.getLsbD, Nat.testBit_eq_decide_div_mod_eq, ne_eq, decide_eq_decide]
  norm_num
  split <;> omega

theorem standardised_iff (w : Word) : standardised w ↔ w = 0 ∨ normalMantissa (mantissa w) :=
  or_congr_right (topBits_differ_iff w)

theorem standardised_saturated (negative : Bool) : standardised (saturated negative) := by
  cases negative <;> exact .inr (by decide)

/-- The thresholds keep the form: they give the packed word, zero or a saturation word (R804, R805). -/
theorem standardised_finish {m : Int} (normal : normalMantissa m) (E : Int) :
    standardised (finish ⟨BitVec.ofInt 30 m, E⟩).1 := by
  obtain ⟨-, result⟩ | ⟨-, result⟩ | ⟨low, high, -⟩ := finish_cases ⟨BitVec.ofInt 30 m, E⟩
  · rw [result]
    exact .inl rfl
  · rw [result]
    exact standardised_saturated _
  · obtain ⟨below, above⟩ := normal.bounds
    obtain ⟨fraction, -⟩ := fields_of_finish m E below above low high
    rw [standardised_iff, fraction]
    exact .inr normal

/-- Overflow is indicated exactly from the exponent 512 up (R805, R821). -/
theorem finish_flag (r : FloatResult) : (finish r).2 = decide (512 ≤ r.exponent) := by
  obtain ⟨range, result⟩ | ⟨range, result⟩ | ⟨-, range, result⟩ := finish_cases r
  · rw [result, decide_eq_false (by omega)]
  · rw [result, decide_eq_true range]
  · rw [result, decide_eq_false (by omega)]

theorem finish_of_neg {r : FloatResult} (low : r.exponent < 0) : finish r = (0, false) := if_pos low

/-- A saturation word by the condition that the result is negative (R804). -/
theorem saturated_decide (negative : Prop) [Decidable negative] :
    saturated (decide negative) = if negative then fmaxNeg else fmaxPos := by
  simp only [saturated, decide_eq_true_iff]

theorem finish_of_large {r : FloatResult} (high : 512 ≤ r.exponent) :
    finish r = (if r.mantissa.toInt < 0 then fmaxNeg else fmaxPos, true) := by
  rw [finish, if_neg (by omega), if_pos high, BitVec.msb_eq_toInt, saturated_decide]

/-- Every word that standardise answers is standardised (R802). -/
theorem standardised_standardise (c e : Int) : standardised (standardise c e).1 := by
  by_cases zero : c = 0
  · rw [zero, standardise_zero]
    exact .inl rfl
  · obtain ⟨m, E, result, normal, -⟩ := standardiseResult_normal zero e
    rw [standardise, result]
    exact standardised_finish normal E

theorem standardise_overflow {c e : Int} (overflow : (standardise c e).2 = true) :
    (standardise c e).1 = if c < 0 then fmaxNeg else fmaxPos := by
  by_cases zero : c = 0
  · rw [zero, standardise_zero] at overflow
    cases overflow
  · obtain ⟨m, E, result, normal, sign⟩ := standardiseResult_normal zero e
    rw [standardise, result] at overflow ⊢
    have high := of_decide_eq_true ((finish_flag _).symm.trans overflow)
    rw [finish_of_large high, normal.toInt_ofInt]
    simp only [sign]

/-- Settles O53, by the form of the rounded mantissa. -/
theorem standardiseResultForm : Obligations.StandardiseResultForm := fun c e =>
  ⟨standardised_standardise c e, standardise_overflow⟩

/-! ## Standardising twice -/

/-- A standardised float is its own standardisation (R806). -/
theorem fstd_of_standardised {w : Word} (h : standardised w) : fstd w = (w, false) := by
  obtain rfl | normal := (standardised_iff w).1 h
  · decide
  · unfold normalMantissa at normal
    have inside : inCell (mantissa w * 17179869184) = true := by rw [inCell_iff]; omega
    have differ : cellBit (mantissa w * 17179869184) 63 ≠ cellBit (mantissa w * 17179869184) 62 := by
      rw [ne_eq, topBits_equal_iff _ inside]
      omega
    rw [fstd, stdResult, cellOf_eq, standardiseResult_fixed _ _ inside differ, mantissa, BitVec.ofInt_toInt]
    exact finish_ofWord w

/-- Settles O52: every standardisation, of a stored float too, is a word that standardise answers. -/
theorem standardiseIsIdempotent : Obligations.StandardiseIsIdempotent :=
  ⟨fun w => fstd_of_standardised (standardised_standardise (cellOf w) (exponent w)),
    fun c e => fstd_of_standardised (standardised_standardise c e)⟩

end Sys2Proof.Machine
end

section
/-! # Float values that standardise keeps exactly (spec/47_fpu.md R801, R811, R818, R821) -/

namespace Sys2Proof.Machine

/-- A value in the cell whose doublings leave no bit below the mantissa is standardised without rounding. -/
theorem standardiseResult_exact {c : Int} (nonzero : c ≠ 0) (inside : inCell c = true) (e : Int) :
    ∃ k : Nat, k ≤ 63 ∧ inCell (c * ((2 ^ k : Nat) : Int)) = true ∧
      cellBit (c * ((2 ^ k : Nat) : Int)) 63 ≠ cellBit (c * ((2 ^ k : Nat) : Int)) 62 ∧
      ∀ m : Int, c * ((2 ^ k : Nat) : Int) = m * 17179869184 →
        standardiseResult c e = ⟨BitVec.ofInt 30 m, e - (k : Int)⟩ := by
  obtain ⟨j, k, n, unhalved, few, doubled, -, ends, differ, result⟩ := standardiseResult_form nonzero e
  obtain rfl := unhalved inside
  rw [pow_zero, Nat.cast_one, Int.ediv_one] at doubled
  subst doubled
  refine ⟨k, few, ends, differ, fun m whole => ?_⟩
  rw [result, whole]
  simp [roundedMantissa_exact]

/-! ## A float and its negation -/

/-- A negation that is neither 0 nor an overflow has an exponent within the thresholds. -/
theorem negResult_exponent_inside {x : Word} (nonzero : (fneg x).1 ≠ 0) (fits : (fneg x).2 = false) :
    0 ≤ (negResult x).exponent ∧ (negResult x).exponent < 512 := by
  rw [fneg] at nonzero fits
  rw [finish_flag] at fits
  have low : ¬ (negResult x).exponent < 0 := fun h => nonzero (by rw [finish_of_neg h])
  have high := of_decide_eq_false fits
  omega

/-- The negation of a float other than -2^29 * 2^E only doubles its mantissa, k times. -/
theorem negResult_exact {x : Word} (nonzero : mantissa x ≠ 0) (notMin : mantissa x ≠ -536870912) :
    ∃ k : Nat, -536870912 ≤ -mantissa x * ((2 ^ k : Nat) : Int) ∧ -mantissa x * ((2 ^ k : Nat) : Int) < 536870912 ∧
      negResult x = ⟨BitVec.ofInt 30 (-mantissa x * ((2 ^ k : Nat) : Int)), (exponent x : Int) - (k : Int)⟩ := by
  have range := mantissa_bounds x
  have inside : inCell (-mantissa x * 17179869184) = true := by rw [inCell_iff]; omega
  obtain ⟨k, -, ends, -, result⟩ := standardiseResult_exact (by omega) inside (exponent x)
  have whole : -mantissa x * 17179869184 * ((2 ^ k : Nat) : Int) = -mantissa x * ((2 ^ k : Nat) : Int) * 17179869184 :=
    Int.mul_right_comm _ _ _
  rw [whole] at ends
  obtain ⟨low, high⟩ := mantissa_of_inCell _ ends
  have word : x ≠ 0 := fun h => nonzero (h ▸ mantissa_zero)
  exact ⟨k, low, high, by rw [negResult, if_neg word, cellOf_eq, ← Int.neg_mul, result _ whole]⟩

/-- Aligning undoes the doublings of a standardisation (R810). -/
theorem alignCell_doubled (c : Int) (k : Nat) : alignCell (c * ((2 ^ k : Nat) : Int)) k = c :=
  Int.mul_ediv_cancel c (by positivity)

/-- A word whose mantissa is 0 is negated to the zero word. -/
theorem fneg_of_mantissa_zero {x : Word} (h : mantissa x = 0) : fneg x = (0, false) := by
  have cell : -cellOf x = 0 := by rw [cellOf_eq, h]; rfl
  rw [fneg, negResult, cell, standardiseResult_zero, ite_self, finish_zero]

/-- Settles O51. A mantissa -2^29 is standardised, which `addResult_neg` covers; any other is negated by doublings alone,
which the alignment of the addition undoes. -/
theorem floatPlusItsNegationIsZero : Obligations.FloatPlusItsNegationIsZero := by
  intro x nonzero fits
  obtain ⟨low, high⟩ := negResult_exponent_inside nonzero fits
  by_cases isMin : mantissa x = -536870912
  · have normal : standardised x := (standardised_iff x).2 (.inr (by unfold normalMantissa; omega))
    exact addResult_neg x normal low high
  · have fraction : mantissa x ≠ 0 := fun h => nonzero (by rw [fneg_of_mantissa_zero h])
    have word : x ≠ 0 := fun h => fraction (h ▸ mantissa_zero)
    obtain ⟨k, below, above, result⟩ := negResult_exact fraction isMin
    rw [result] at low high
    rw [fneg, result] at nonzero ⊢
    obtain ⟨negated, lowered⟩ := fields_of_finish _ ((exponent x : Int) - (k : Int)) below above low high
    generalize (finish _).1 = v at nonzero negated lowered ⊢
    have cancels : cellOf x + alignCell (cellOf v) k = 0 := by
      rw [cellOf_eq v, negated, Int.mul_right_comm, alignCell_doubled, cellOf_eq]
      omega
    rw [fadd, addResult_eq x v word nonzero, if_pos (by omega), show exponent x - exponent v = k by omega, cancels,
      standardiseResult_zero, finish_zero]

/-! ## Integer to float -/

/-- The conversion of an integer of 30 bits that is not 0 drops no bit: it is doubled nine times at least, up to the
mantissa's place, and i times more. -/
theorem fixResult_exact {a : Word} (low : -536870912 ≤ a.toInt) (high : a.toInt < 536870912) (nonzero : a.toInt ≠ 0)
    (fixExp : Int) :
    ∃ i : Nat, i ≤ 54 ∧
      -536870912 ≤ a.toInt * ((2 ^ i : Nat) : Int) ∧ a.toInt * ((2 ^ i : Nat) : Int) < 536870912 ∧
      fixResult fixExp a = ⟨BitVec.ofInt 30 (a.toInt * ((2 ^ i : Nat) : Int)), fixExp - 9 - (i : Int)⟩ := by
  have inside : inCell (a.toInt * ((2 ^ 25 : Nat) : Int)) = true := by rw [inCell_iff]; omega
  obtain ⟨k, few, ends, differ, result⟩ := standardiseResult_exact (by omega) inside fixExp
  have enough : 9 ≤ k := by
    rw [ne_eq, topBits_equal_iff _ ends] at differ
    by_contra short
    interval_cases k <;> omega
  obtain ⟨i, rfl⟩ := Nat.exists_eq_add_of_le enough
  have whole : a.toInt * ((2 ^ 25 : Nat) : Int) * ((2 ^ (9 + i) : Nat) : Int) =
      a.toInt * ((2 ^ i : Nat) : Int) * 17179869184 := by
    rw [pow_add]
    push_cast
    ring
  rw [whole] at ends
  obtain ⟨below, above⟩ := mantissa_of_inCell _ ends
  refine ⟨i, by omega, below, above, ?_⟩
  rw [fixResult, result _ whole]
  congr 1
  push_cast
  ring

/-- Settles O55: the exponent is lowered by the doublings of the mantissa. -/
theorem integerToFloatKeepsValue : Obligations.IntegerToFloatKeepsValue := by
  intro a low high
  by_cases zero : a.toInt = 0
  · have result : ffix 294 a = (0, false) := by
      rw [ffix, fixResult, zero, Int.zero_mul, standardiseResult_zero, finish_zero]
    rw [result, zero, mantissa_zero]
    exact ⟨by rw [Int.zero_mul, Int.zero_mul], rfl⟩
  · obtain ⟨i, few, below, above, result⟩ := fixResult_exact low high zero 294
    rw [ffix, result, finish_flag]
    obtain ⟨fraction, power⟩ :=
      fields_of_finish (a.toInt * ((2 ^ i : Nat) : Int)) (294 - 9 - (i : Int)) below above (by omega) (by omega)
    have split : (2 : Nat) ^ 285 = 2 ^ i * 2 ^ (285 - i) := by rw [← pow_add, Nat.add_sub_cancel' (by omega)]
    refine ⟨?_, decide_eq_false (by simp only []; omega)⟩
    rw [fraction, show exponent _ = 285 - i by omega, split, Nat.cast_mul, Int.mul_assoc]

end Sys2Proof.Machine
end

section
/-! # Zero operands, saturation and thresholds under any floating-point unit (spec/47_fpu.md R810 to R821,
spec/48_group6_float.md R850)

`execWith_op60` to `execWith_op65_float` give the float instructions as `floatResult` of the unit's word; what R821 asks
of every unit is read through them. -/

namespace Sys2Proof.Machine

open Host

/-! ## The reference functions -/

theorem fadd_zero_left (x : Word) : fadd 0 x = (x, false) := by
  rw [fadd, addResult, if_pos rfl, finish_ofWord]

/-- A divisor whose mantissa is 0 saturates with the dividend's sign, whatever its exponent (R816). -/
theorem fdiv_of_mantissa_zero (delta : Int) (x : Word) {y : Word} (h : mantissa y = 0) :
    fdiv delta x y = (if mantissa x < 0 then fmaxNeg else fmaxPos, true) := by
  rw [fdiv, divResult, if_pos h]
  exact finish_of_large (Int.le_refl 512)

/-- The zero rules of the reference: those of R821, and three more. -/
theorem reference_zero_rules (delta : Int) (x y : Word) :
    fadd x 0 = (x, false) ∧ fadd 0 x = (x, false) ∧ fneg 0 = (0, false) ∧
    fmpy delta x 0 = (0, false) ∧ fmpy delta 0 x = (0, false) ∧
    (mantissa y = 0 → fdiv delta x y = (if mantissa x < 0 then fmaxNeg else fmaxPos, true)) :=
  have lawful := referenceOps_lawful delta 0 0
  ⟨lawful.add_zero x, fadd_zero_left x, fneg_of_mantissa_zero mantissa_zero, (lawful.mpy_zero x).1, (lawful.mpy_zero x).2,
    fdiv_of_mantissa_zero delta x⟩

/-! ## The float instructions under any unit -/

section
variable (p : Config.Params) (n : Addr) (s : State)

theorem execWith_op60 :
    execWith p (.op60 n) s = .next (floatResult ((floatUnit p).fadd s.acc (memRead s n)) s) := rfl

theorem execWith_op61 :
    execWith p (.op61 n) s = .next (floatResult (fsub (floatUnit p) s.acc (memRead s n)) s) := rfl

theorem execWith_op63 :
    execWith p (.op63 n) s = .next (floatResult ((floatUnit p).fmpy s.acc (memRead s n)) s) := rfl

theorem execWith_op64 :
    execWith p (.op64 n) s = .next (floatResult ((floatUnit p).fdiv s.acc (memRead s n)) s) := rfl

theorem execWith_op65_float :
    execWith p (.op65 4096) s = .next (floatResult ((floatUnit p).ffix s.acc) s) :=
  congrArg Outcome.next (floatOrShift_float p s rfl)

end

/-- A result without overflow keeps OVR, and one with overflow sets it (R103, R850). -/
theorem floatResult_fits (v : Word) (s : State) : floatResult (v, false) s = { s with acc := v, pc := s.pc + 1 } := by
  rw [floatResult_eq, Bool.or_false]

theorem floatResult_overflows (v : Word) (s : State) :
    floatResult (v, true) s = { s with acc := v, ovr := true, pc := s.pc + 1 } := by
  rw [floatResult_eq, Bool.or_true]

/-- The thresholds of R821 as the next state of an instruction that writes the result r to A. -/
theorem thresholds_of_floatResult {run : Outcome State Fault Refusal} {r : FloatResult} {s : State}
    (h : run = .next (floatResult (finish r) s)) :
    (r.exponent < 0 → run = .next { s with acc := 0, pc := s.pc + 1 }) ∧
    (512 ≤ r.exponent →
      run = .next { s with acc := if r.mantissa.toInt < 0 then fmaxNeg else fmaxPos, ovr := true, pc := s.pc + 1 }) :=
  ⟨fun low => by rw [h, finish_of_neg low, floatResult_fits],
    fun high => by rw [h, finish_of_large high, floatResult_overflows]⟩

/-- A standardised float less itself is 0 when its negation stays within the thresholds (R821, R850). -/
theorem fsub_self (u : Config.Fpu) {x : Word} (normal : standardised x) (low : 0 ≤ (u.neg x).exponent)
    (high : (u.neg x).exponent < 512) : fsub u x x = (0, false) := by
  have fits : (u.fneg x).2 = false := (finish_flag (u.neg x)).trans (decide_eq_false (by omega))
  simp only [fsub, fits, u.lawful.add_neg x normal low high, Bool.or_false]

/-- Settles O50: the reference's zero rules, and R821 of the configured unit through the float instructions. -/
theorem floatZeroSaturationAndThresholdRules : Obligations.FloatZeroSaturationAndThresholdRules := by
  unfold Obligations.FloatZeroSaturationAndThresholdRules
  refine ⟨reference_zero_rules, ?_⟩
  intro holds
  have underEvery : ∀ p, holds (execWith p) p := by
    intro p n s u m thresholds
    have lawful := u.lawful
    refine ⟨fun zero => ⟨?_, ?_⟩, fun zero => ?_, fun operandMax accMax => ?_, fun same normal low high => ?_,
      thresholds_of_floatResult (execWith_op60 p n s), thresholds_of_floatResult (execWith_op63 p n s),
      thresholds_of_floatResult (execWith_op64 p n s), thresholds_of_floatResult (execWith_op65_float p s),
      lawful.std_idempotent⟩
    · have sum : u.fadd s.acc m = (s.acc, false) := by rw [zero, lawful.add_zero]
      rw [execWith_op60, sum, floatResult_fits]
    · have quotient : u.fdiv s.acc m = (if mantissa s.acc < 0 then fmaxNeg else fmaxPos, true) := by
        rw [zero, lawful.div_zero, saturated_decide]
      rw [execWith_op64, quotient, floatResult_overflows]
    · have product : u.fmpy s.acc m = (0, false) := by
        obtain operandZero | accZero := zero
        · rw [operandZero, (lawful.mpy_zero _).1]
        · rw [accZero, (lawful.mpy_zero _).2]
      rw [execWith_op63, product, floatResult_fits]
    · have sum : u.fadd s.acc m = (s.acc, true) := by rw [operandMax, accMax, lawful.add_max]
      rw [execWith_op60, sum, floatResult_overflows]
    · have difference : fsub u s.acc m = (0, false) := by
        rw [← same]
        exact fsub_self u normal low high
      rw [execWith_op61, difference, floatResult_fits]
  exact ⟨exec_eq ▸ underEvery params, underEvery⟩

end Sys2Proof.Machine
end

section
/-! # Group 6, the float instructions and the opcodes that halt (spec/48_group6_float.md R850 to R858, R1006) -/

namespace Sys2Proof.Machine

open Host

/-- A statement about the meanings under every configuration is one about the machine behind the host's interface. -/
theorem exec_of_execWith {holds : (Instr → State → Outcome State Fault Refusal) → Config.Params → Prop}
    (underEvery : ∀ p : Config.Params, holds (execWith p) p) :
    holds exec params ∧ ∀ p : Config.Params, holds (execWith p) p :=
  ⟨exec_eq ▸ underEvery params, underEvery⟩

/-- The same for a statement about steps. -/
theorem step_of_stepWith {holds : (State → Outcome State Fault Refusal) → Config.Params → Prop}
    (underEvery : ∀ p : Config.Params, holds (stepWith p) p) :
    holds step params ∧ ∀ p : Config.Params, holds (stepWith p) p :=
  ⟨step_eq ▸ underEvery params, underEvery⟩

/-- Subtraction adds the negation, and its overflow is the OR of both (R850). -/
theorem fsub_eq (u : Config.Fpu) (x y : Word) :
    fsub u x y = ((u.fadd x (u.fneg y).1).1, (u.fneg y).2 || (u.fadd x (u.fneg y).1).2) := rfl

theorem execWith_op62 (p : Config.Params) (n : Addr) (s : State) :
    execWith p (.op62 n) s = .next (floatResult (fsub (floatUnit p) (memRead s n) s.acc) s) := rfl

/-- Settles O42: each of 60 to 64 is a float result of the configured unit, a subtraction that of a negation and an
addition. -/
theorem floatInstructionsUseTheFpu : Obligations.FloatInstructionsUseTheFpu := by
  unfold Obligations.FloatInstructionsUseTheFpu
  intro holds
  refine exec_of_execWith fun p n s => ⟨?_, ?_, ?_, ?_, ?_⟩
  · rw [execWith_op60, floatResult_eq]
  · rw [execWith_op61, floatResult_eq, fsub_eq]
  · rw [execWith_op62, floatResult_eq, fsub_eq]
  · rw [execWith_op63, floatResult_eq]
  · rw [execWith_op64, floatResult_eq]

/-- The next state of a halt, which records its reason (R10, R1006). -/
theorem next_halt (r : HaltReason) (s : State) :
    (Outcome.next (halt r s) : Outcome State Fault Refusal) =
      .next { s with mode := .stop, trace := s.trace ++ [.halted r] } :=
  congrArg Outcome.next (halt_eq r s)

/-- Settles O44: each of the six is the halt that names its own opcode. -/
theorem unimplementedOpcodesHalt : Obligations.UnimplementedOpcodesHalt := fun _ s =>
  ⟨next_halt (.unimplemented 0o66) s, next_halt (.unimplemented 0o67) s, next_halt (.unimplemented 0o72) s,
    next_halt (.unimplemented 0o75) s, next_halt (.unimplemented 0o76) s, next_halt (.unimplemented 0o77) s⟩

end Sys2Proof.Machine
end

section
/-! # Group 7, the word generator, the units and the link (spec/49_group7_io.md R900 to R905) -/

namespace Sys2Proof.Machine

open Host

/-! ## The word generator and the link -/

theorem readGenerator_eq (s : State) :
    readGenerator s = { s with acc := s.wg, poll := s.poll + 1, pc := s.pc + 1 } := rfl

/-- Settles O45: N does not occur in the meaning of 70. -/
theorem wordGeneratorRead : Obligations.WordGeneratorRead := fun _ s => congrArg Outcome.next (readGenerator_eq s)

theorem storeLink_eq (n : Addr) (s : State) :
    storeLink n s = { s with pc := s.pc + 1, store := s.store.write n.toNat (linkWord s.pc) } := rfl

/-- Settles O47: the stored word is `pc >> 1`, and 73 has the frame of every instruction that stores a word. -/
theorem linkStoresOwnAddress : Obligations.LinkStoresOwnAddress := fun n s wf =>
  ⟨_, congrArg Outcome.next (storeLink_eq n s), rfl, rfl, rfl,
    linkWord_eq_ofNat s.pc ▸ storing_update_frame wf n (linkWord s.pc) s.acc s.ovr (s.pc + 1)⟩

/-! ## The selected unit -/

/-- N[12:11] as the quotient of N by 2048 (R901). -/
theorem unitField_eq {n : Addr} {k : Fin 4} (quotient : n.toNat / 2048 = k.val) : (n.extractLsb' 11 2).toFin = k := by
  have range := n.isLt
  apply Fin.ext
  rw [BitVec.val_toFin, BitVec.extractLsb'_toNat, Nat.shiftRight_eq_div_pow]
  omega

/-- Settles O49: the four values of the field. -/
theorem unitSelection : Obligations.UnitSelection := fun p n =>
  ⟨fun first => by rw [unitOf, unitField_eq (k := 0) first], fun second => by rw [unitOf, unitField_eq (k := 1) second],
    fun third => by rw [unitOf, unitField_eq (k := 2) third], fun both => by rw [unitOf, unitField_eq (k := 3) both]⟩

/-! ## A byte in and a byte out, or a hold -/

section
variable (p : Config.Params) {n : Addr} {s : State}

/-- 71 with a byte waiting (R902). -/
theorem execWith_op71_waiting {b : Byte} {rest : List Byte} (waiting : s.readers.get (unitOf p n) = b :: rest) :
    execWith p (.op71 n) s =
      .next { s with
        acc := s.acc ||| (b &&& p.charMask).setWidth 39, pc := s.pc + 1,
        readers := s.readers.set (unitOf p n) rest } := by
  obtain ⟨empty, -⟩ | ⟨c, others, bytes, h⟩ := readByte_cases p (unitOf p n) s
  · exact absurd (empty.symm.trans waiting) (List.cons_ne_nil b rest).symm
  · obtain ⟨rfl, rfl⟩ := List.cons.inj (bytes.symm.trans waiting)
    exact congrArg Outcome.next h

/-- 71 on an empty reader (R902). -/
theorem execWith_op71_empty (empty : s.readers.get (unitOf p n) = []) :
    execWith p (.op71 n) s = .next { s with busy := some (.reader (unitOf p n)) } := by
  obtain ⟨-, h⟩ | ⟨b, rest, waiting, -⟩ := readByte_cases p (unitOf p n) s
  · exact congrArg Outcome.next h
  · exact absurd (waiting.symm.trans empty) (List.cons_ne_nil b rest)

/-- The low bits of N, as a number (R905). -/
theorem byteToPunch_eq (n : Addr) : byteToPunch p n = BitVec.ofNat 8 n.toNat &&& p.charMask := by
  rw [byteToPunch, BitVec.ofNat_toNat]

/-- 74 with room for the byte (R905). -/
theorem execWith_op74_room (room : (s.punches.get (unitOf p n)).length < p.ringCapacity) :
    execWith p (.op74 n) s =
      .next { s with
        pc := s.pc + 1,
        punches := s.punches.set (unitOf p n)
          (s.punches.get (unitOf p n) ++ [BitVec.ofNat 8 n.toNat &&& p.charMask]) } := by
  rw [← byteToPunch_eq]
  obtain ⟨full, -⟩ | ⟨-, h⟩ := punchByte_cases p (unitOf p n) (byteToPunch p n) s
  · omega
  · exact congrArg Outcome.next h

/-- 74 on a full punch (R905). -/
theorem execWith_op74_full (full : p.ringCapacity ≤ (s.punches.get (unitOf p n)).length) :
    execWith p (.op74 n) s = .next { s with busy := some (.punch (unitOf p n)) } := by
  obtain ⟨-, h⟩ | ⟨room, -⟩ := punchByte_cases p (unitOf p n) (byteToPunch p n) s
  · exact congrArg Outcome.next h
  · omega

end

/-- Settles O46: the two things a read of a reader can do. -/
theorem readByteOrHold : Obligations.ReadByteOrHold := by
  unfold Obligations.ReadByteOrHold
  intro holds
  exact exec_of_execWith fun p _ _ => ⟨fun _ _ => execWith_op71_waiting p, execWith_op71_empty p⟩

/-- Settles O48: the two things a punch can do. -/
theorem punchByteOrHold : Obligations.PunchByteOrHold := by
  unfold Obligations.PunchByteOrHold
  intro holds
  exact exec_of_execWith fun p _ _ => ⟨execWith_op74_room p, execWith_op74_full p⟩

/-! ## The hold and the retry -/

/-- A fetch depends on pc and the store alone (R311). -/
theorem fetch_congr (p : Config.Params) {s t : State} (pc : t.pc = s.pc) (store : t.store = s.store) :
    fetch p t = fetch p s := by
  have word : currentWord p t = currentWord p s := by
    rw [currentWord, currentWord, pc, progRead_congr p t s store]
  have modified : modifiedWord t (currentWord p t) = modifiedWord s (currentWord p s) := by
    rw [modifiedWord, modifiedWord, word, memRead_congr t s store]
  rw [fetch, fetch, fetchHalf, fetchHalf, pc, word, ← modified, word]

/-- The forms that set busy change nothing else (R1007). -/
theorem Effect.eq_held {p : Config.Params} {i : Instr} {s t : State} (e : Effect p i s t) (idle : s.busy = none)
    (held : t.busy ≠ none) : ∃ d : Device, t = { s with busy := some d } := by
  cases e with
  | readHold => exact ⟨_, rfl⟩
  | punchHold => exact ⟨_, rfl⟩
  | compute | store | double | fallThrough | overflowJump | selfJump | jump | readGenerator | readByte | punchByte
  | unimplemented => exact absurd idle held

/-- Settles O20: a holding form, which leaves pc and the store for the next fetch. -/
theorem heldInstructionRetries : Obligations.HeldInstructionRetries := by
  unfold Obligations.HeldInstructionRetries
  intro holds
  refine step_of_stepWith fun p s t live ran held => ?_
  obtain ⟨run, idle⟩ := live
  obtain ⟨-, e⟩ | ⟨stuck, -⟩ := stepWith_cases ran
  · obtain ⟨d, rfl⟩ := e.eq_held idle held
    exact ⟨⟨d, rfl⟩, run, fetch_congr p rfl rfl⟩
  · exact absurd ⟨run, idle⟩ stuck

end Sys2Proof.Machine
end

section
/-! # The fields of a packed word (spec/30_encoding.md R300) -/

namespace Sys2Proof

theorem opcode_firstHalf (w : Word) : Half.opcode (Word.firstHalf w) = Word.f1 w := by
  rw [← f1_append_n1, opcodeField_of_append]

theorem addr_firstHalf (w : Word) : Half.addr (Word.firstHalf w) = Word.n1 w := by
  rw [← f1_append_n1, addrField_of_append]

theorem opcode_secondHalf (w : Word) : Half.opcode (Word.secondHalf w) = Word.f2 w := by
  rw [← f2_append_n2, opcodeField_of_append]

theorem addr_secondHalf (w : Word) : Half.addr (Word.secondHalf w) = Word.n2 w := by
  rw [← f2_append_n2, addrField_of_append]

section
variable (f1 : Opcode) (n1 : Addr) (b : Bool) (f2 : Opcode) (n2 : Addr)

@[simp] theorem firstHalf_packWord : Word.firstHalf (packWord f1 n1 b f2 n2) = f1 ++ n1 := firstHalf_packHalves _ _ _

@[simp] theorem bflag_packWord : Word.bflag (packWord f1 n1 b f2 n2) = b := bflag_packHalves _ _ _

@[simp] theorem secondHalf_packWord : Word.secondHalf (packWord f1 n1 b f2 n2) = f2 ++ n2 :=
  secondHalf_packHalves _ _ _

@[simp] theorem f1_packWord : Word.f1 (packWord f1 n1 b f2 n2) = f1 := by
  rw [← opcode_firstHalf, firstHalf_packWord, opcodeField_of_append]

@[simp] theorem n1_packWord : Word.n1 (packWord f1 n1 b f2 n2) = n1 := by
  rw [← addr_firstHalf, firstHalf_packWord, addrField_of_append]

@[simp] theorem f2_packWord : Word.f2 (packWord f1 n1 b f2 n2) = f2 := by
  rw [← opcode_secondHalf, secondHalf_packWord, opcodeField_of_append]

@[simp] theorem n2_packWord : Word.n2 (packWord f1 n1 b f2 n2) = n2 := by
  rw [← addr_secondHalf, secondHalf_packWord, addrField_of_append]

end

end Sys2Proof
end

section
/-! # The engine's step and the host (spec/60_exceptions.md R1000, R1001, R1042 to R1050, spec/70_reset_and_hazards.md
R1100, R1101)

`hostOp_of_effect` and `hostOp_of_rejected` are the two rules of a host operation; each operation's own effect is read
through them. -/

namespace Sys2Proof.Machine

open Host

/-- Settles O16: a step is `engineStep`, which is defined everywhere. -/
theorem everyStepGivesNextState : Obligations.EveryStepGivesNextState := fun s =>
  ⟨⟨_, (congrFun step_eq s).trans (stepWith_eq_engineStep params s)⟩, fun p => ⟨_, stepWith_eq_engineStep p s⟩⟩

/-! ## Success and rejection -/

section
variable {p : Config.Params} {o : HostOp} {s t : State} {r : Reply}

/-- An operation that succeeds has its own effect and clears busy (R1042). -/
theorem hostOp_of_effect (h : hostEffect p o s = some (t, r)) : hostOp p o s = (t.setBusy none, some r) := by
  rw [hostOp, h]

/-- An operation that is rejected changes nothing (R1042). -/
theorem hostOp_of_rejected (h : hostEffect p o s = none) : hostOp p o s = (s, none) := by
  rw [hostOp, h]

end

/-- Settles O56: the operation is rejected or has an effect. -/
theorem hostSuccessClearsBusyRejectionChangesNothing :
    Obligations.HostSuccessClearsBusyRejectionChangesNothing := by
  intro p o s
  obtain ⟨-, h⟩ | ⟨t, r, -, h⟩ := hostOp_cases p o s <;> rw [h]
  · exact ⟨fun _ replied => absurd replied.symm (Option.some_ne_none _), fun _ => rfl⟩
  · exact ⟨fun _ _ => State.setBusy_busy t none, fun rejected => absurd rejected (Option.some_ne_none r)⟩

/-! ## Reset (R1100, R1101) -/

theorem hostOp_reset (p : Config.Params) (s : State) :
    hostOp p .reset s =
      ({ s with acc := 0, aux := 0, ovr := false, pc := 0, busy := none, mode := .stop, poll := 0 }, some .done) :=
  hostOp_of_effect (t := resetEffect s) rfl

theorem hostOp_resetRun (p : Config.Params) (s : State) :
    hostOp p .resetRun s =
      ({ s with
        acc := 0, aux := 0, ovr := false, pc := 0, busy := none, mode := .run, poll := 0, wg := p.bootWg },
        some .done) :=
  hostOp_of_effect (t := resetRunEffect p s) rfl

/-- With pc 0 the engine's word is the first of the bootstrap table, whatever the store holds (R203). -/
theorem currentWord_of_pc_zero (p : Config.Params) {s : State} (start : s.pc = 0) :
    currentWord p s = p.bootstrap[0] := by
  rw [currentWord, start]
  exact progRead_overlay p s (a := wordAddrOf 0) (by decide)

/-- Settles O1: the two resets as updates of the state, both with pc 0. -/
theorem resetAndResetRunEffects : Obligations.ResetAndResetRunEffects := fun p s =>
  ⟨hostOp_reset p s, hostOp_resetRun p s, currentWord_of_pc_zero p (by rw [hostOp_resetRun])⟩

/-! ## Memory access (R1043 to R1045) -/

theorem addrInRange_iff (a : Nat) : addrInRange a = true ↔ a < 8192 := decide_eq_true_iff

theorem opcodeInRange_iff (f : Nat) : opcodeInRange f = true ↔ f < 64 := decide_eq_true_iff

section
variable {p : Config.Params} {a : Nat} {x : CodeText} {s : State}

theorem hostEffect_memWrite {w : Word} (inside : a < 8192) (written : x.word = some w) :
    hostEffect p (.memWrite a x) s = some (memWrite s (BitVec.ofNat 13 a) w, .done) := by
  rw [hostEffect, if_pos ((addrInRange_iff a).2 inside), written]
  rfl

theorem hostEffect_memWrite_rejected (bad : ¬ a < 8192 ∨ x.word = none) :
    hostEffect p (.memWrite a x) s = none := by
  rw [hostEffect]
  obtain outside | illFormed := bad
  · exact if_neg (mt (addrInRange_iff a).1 outside)
  · rw [illFormed, Option.map_none, ite_self]

theorem hostEffect_memRead (inside : a < 8192) :
    hostEffect p (.memRead a) s = some (s, .word (progRead p s (BitVec.ofNat 13 a))) :=
  if_pos ((addrInRange_iff a).2 inside)

theorem hostEffect_memRead_rejected (outside : ¬ a < 8192) : hostEffect p (.memRead a) s = none :=
  if_neg (mt (addrInRange_iff a).1 outside)

end

/-- Settles O57: the range checks of the address and of the written word. -/
theorem hostMemoryAccess : Obligations.HostMemoryAccess := fun _ _ _ _ =>
  ⟨fun _ inside written => hostOp_of_effect (hostEffect_memWrite inside written),
    fun bad => hostOp_of_rejected (hostEffect_memWrite_rejected bad),
    fun inside => hostOp_of_effect (hostEffect_memRead inside),
    fun outside => hostOp_of_rejected (hostEffect_memRead_rejected outside)⟩

/-! ## Filling a reader (R1049) -/

/-- Only 1, 2 and 3 are unit numbers (R1049). -/
theorem range_of_unitOfNumber {k : Nat} {u : UnitNo} (unit : unitOfNumber k = some u) : 1 ≤ k ∧ k ≤ 3 := by
  unfold unitOfNumber at unit
  split at unit
  · decide
  · decide
  · decide
  · cases unit

section
variable {p : Config.Params} {k : Nat} {bytes : List Byte} {s : State}

theorem readerFill_accepts {u : UnitNo} (unit : unitOfNumber k = some u) (nonempty : 1 ≤ bytes.length)
    (few : bytes.length ≤ 32) (room : (s.readers.get u).length + bytes.length ≤ p.ringCapacity) :
    readerFill p k bytes s = some (s.setReaders (s.readers.set u (s.readers.get u ++ bytes))) := by
  have fits : (s.readers.get u ++ bytes).length ≤ p.ringCapacity := by rwa [List.length_append]
  rw [readerFill, unit]
  exact if_pos ⟨nonempty, few, fits⟩

theorem readerFill_rejects
    (bad : ¬ (1 ≤ k ∧ k ≤ 3) ∨ bytes.length = 0 ∨ 32 < bytes.length ∨
      (∃ u : UnitNo, unitOfNumber k = some u ∧ p.ringCapacity < (s.readers.get u).length + bytes.length)) :
    readerFill p k bytes s = none := by
  obtain rejected | ⟨u, unit, nonempty, few, fits, -⟩ := readerFill_cases p k bytes s
  · exact rejected
  · rw [List.length_append] at fits
    obtain noUnit | empty | many | ⟨v, unit', full⟩ := bad
    · exact absurd (range_of_unitOfNumber unit) noUnit
    · omega
    · omega
    · obtain rfl : u = v := Option.some.inj (unit.symm.trans unit')
      omega

theorem hostEffect_reader (p : Config.Params) (k : Nat) (bytes : List Byte) (s : State) :
    hostEffect p (.reader k bytes) s = (readerFill p k bytes s).map fun t => (t, .done) := rfl

/-- An accepted fill: the bytes in order behind those that wait, and busy cleared. -/
theorem hostOp_reader_accepts {u : UnitNo} (unit : unitOfNumber k = some u) (nonempty : 1 ≤ bytes.length)
    (few : bytes.length ≤ 32) (room : (s.readers.get u).length + bytes.length ≤ p.ringCapacity) :
    hostOp p (.reader k bytes) s =
      ({ s with readers := s.readers.set u (s.readers.get u ++ bytes), busy := none }, some .done) :=
  hostOp_of_effect (t := s.setReaders _) (by rw [hostEffect_reader, readerFill_accepts unit nonempty few room]; rfl)

theorem hostOp_reader_rejects
    (bad : ¬ (1 ≤ k ∧ k ≤ 3) ∨ bytes.length = 0 ∨ 32 < bytes.length ∨
      (∃ u : UnitNo, unitOfNumber k = some u ∧ p.ringCapacity < (s.readers.get u).length + bytes.length)) :
    hostOp p (.reader k bytes) s = (s, none) :=
  hostOp_of_rejected (by rw [hostEffect_reader, readerFill_rejects bad, Option.map_none])

end

/-- Settles O58: the fill's one condition holds or fails. -/
theorem readerFillIsAllOrNothing : Obligations.ReaderFillIsAllOrNothing :=
  ⟨rfl, rfl, rfl, fun _ _ _ _ => ⟨fun _ => hostOp_reader_accepts, hostOp_reader_rejects⟩⟩

/-! ## A hold that the host ends -/

section
variable {p : Config.Params} {n : Addr} {s : State}

theorem stepWith_op71_empty (live : s.live) (fetched : fetch p s = .op71 n)
    (empty : s.readers.get (unitOf p n) = []) :
    stepWith p s = .next { s with busy := some (.reader (unitOf p n)) } := by
  rw [stepWith_live p s live, fetched, execWith_op71_empty p empty]

theorem stepWith_op71_waiting (live : s.live) (fetched : fetch p s = .op71 n) {b : Byte} {rest : List Byte}
    (waiting : s.readers.get (unitOf p n) = b :: rest) :
    stepWith p s =
      .next { s with
        acc := s.acc ||| (b &&& p.charMask).setWidth 39, pc := s.pc + 1,
        readers := s.readers.set (unitOf p n) rest } := by
  rw [stepWith_live p s live, fetched, execWith_op71_waiting p waiting]

/-- The host fills the reader that a 71 holds on: of the state before the hold only the reader has changed. -/
theorem hostOp_fill_of_held {k : Nat} (empty : s.readers.get (unitOf p n) = []) (idle : s.busy = none)
    (unit : unitOfNumber k = some (unitOf p n)) {bytes : List Byte} (nonempty : 1 ≤ bytes.length)
    (few : bytes.length ≤ 32) (room : bytes.length ≤ p.ringCapacity) :
    hostOp p (.reader k bytes) { s with busy := some (.reader (unitOf p n)) } =
      (s.setReaders (s.readers.set (unitOf p n) bytes), some .done) := by
  rw [hostOp_reader_accepts unit nonempty few (by simpa [empty] using room)]
  simp only [empty, List.nil_append, ← idle, State.setReaders]

end

/-- Settles O60: the hold leaves pc and the store, so after the fill the same 71 is fetched, with the bytes waiting. -/
theorem holdFillThenRead : Obligations.HoldFillThenRead := by
  unfold Obligations.HoldFillThenRead
  intro holds
  refine step_of_stepWith fun p s n k b rest live fetched empty unit few room => ?_
  have idle : s.busy = none := live.2
  have held := stepWith_op71_empty live fetched empty
  have filled := hostOp_fill_of_held empty idle unit (bytes := b :: rest) (Nat.le_add_left _ _) few room
  have taken := stepWith_op71_waiting (s := s.setReaders (s.readers.set (unitOf p n) (b :: rest))) live
    ((fetch_congr p rfl rfl).trans fetched) (Buffers.get_set_same _ _ _)
  have resumed := (congrArg (fun answer => stepWith p answer.1) filled).trans taken
  exact ⟨_, _, held, rfl, rfl, rfl, resumed, idle, rfl, rfl, Buffers.get_set_same _ _ _⟩

/-! ## The word generator (R1050) -/

theorem hostEffect_wg (p : Config.Params) {arg : WgArg} (written : arg ≠ .show) (s : State) :
    hostEffect p (.wg arg) s = (wgUpdate s.wg arg).map fun w => (s.setWg w, .done) := by
  match arg, written with
  | .show, written => exact absurd rfl written
  | .set _, _ | .f1 _, _ | .f2 _, _ | .n1 _ _, _ | .n2 _, _ => rfl

section
variable {p : Config.Params} {arg : WgArg} {s : State}

theorem hostOp_wg_writes (written : arg ≠ .show) {w : Word} (accepted : wgUpdate s.wg arg = some w) :
    hostOp p (.wg arg) s = ({ s with wg := w, busy := none }, some .done) :=
  hostOp_of_effect (t := s.setWg w) (by rw [hostEffect_wg p written, accepted]; rfl)

theorem hostOp_wg_rejected (rejected : wgUpdate s.wg arg = none) : hostOp p (.wg arg) s = (s, none) := by
  have written : arg ≠ .show := by
    rintro rfl
    cases rejected
  exact hostOp_of_rejected (by rw [hostEffect_wg p written, rejected, Option.map_none])

end

section
variable {w : Word} {v : Nat}

theorem wgUpdate_f1 (inside : v < 64) :
    wgUpdate w (.f1 v) =
      some (packWord (BitVec.ofNat 6 v) (Word.n1 w) (Word.bflag w) (Word.f2 w) (Word.n2 w)) :=
  if_pos ((opcodeInRange_iff v).2 inside)

theorem wgUpdate_f2 (inside : v < 64) :
    wgUpdate w (.f2 v) =
      some (packWord (Word.f1 w) (Word.n1 w) (Word.bflag w) (BitVec.ofNat 6 v) (Word.n2 w)) :=
  if_pos ((opcodeInRange_iff v).2 inside)

theorem wgUpdate_n1 (inside : v < 8192) (modifier : Bool) :
    wgUpdate w (.n1 v modifier) =
      some (packWord (Word.f1 w) (BitVec.ofNat 13 v) (Word.bflag w || modifier) (Word.f2 w) (Word.n2 w)) :=
  if_pos ((addrInRange_iff v).2 inside)

theorem wgUpdate_n2 (inside : v < 8192) :
    wgUpdate w (.n2 v) =
      some (packWord (Word.f1 w) (Word.n1 w) (Word.bflag w) (Word.f2 w) (BitVec.ofNat 13 v)) :=
  if_pos ((addrInRange_iff v).2 inside)

theorem wgUpdate_opcode_rejected (outside : ¬ v < 64) :
    wgUpdate w (.f1 v) = none ∧ wgUpdate w (.f2 v) = none :=
  have bad := mt (opcodeInRange_iff v).1 outside
  ⟨if_neg bad, if_neg bad⟩

theorem wgUpdate_addr_rejected (outside : ¬ v < 8192) :
    (∀ modifier : Bool, wgUpdate w (.n1 v modifier) = none) ∧ wgUpdate w (.n2 v) = none :=
  have bad := mt (addrInRange_iff v).1 outside
  ⟨fun _ => if_neg bad, if_neg bad⟩

end

/-- Settles O59: each argument's new word, and the fields of a packed word. -/
theorem wordGeneratorFieldUpdate : Obligations.WordGeneratorFieldUpdate := by
  intro p s v x w rejected writes
  have accept : ∀ {arg : WgArg} {y : Word}, arg ≠ .show → wgUpdate w arg = some y → writes arg y :=
    fun written accepted => hostOp_wg_writes written accepted
  have reject : ∀ {arg : WgArg}, wgUpdate w arg = none → hostOp p (.wg arg) s = rejected := hostOp_wg_rejected
  refine ⟨hostOp_of_effect (t := s) rfl, fun y => accept (arg := .set x) (by simp), reject (arg := .set x),
    fun inside => ⟨_, _, accept (by simp) (wgUpdate_f1 inside), accept (by simp) (wgUpdate_f2 inside), ?_⟩,
    fun outside => ?_,
    fun inside => ⟨_, _, _, accept (by simp) (wgUpdate_n1 inside false), accept (by simp) (wgUpdate_n2 inside),
      accept (by simp) (wgUpdate_n1 inside true), ?_⟩,
    fun outside => ?_⟩
  · have value : (BitVec.ofNat 6 v).toNat = v := Nat.mod_eq_of_lt inside
    simp [value, w, f1_append_n1, f2_append_n2]
  · obtain ⟨f1, f2⟩ := wgUpdate_opcode_rejected (w := w) outside
    exact ⟨reject f1, reject f2⟩
  · have value : (BitVec.ofNat 13 v).toNat = v := Nat.mod_eq_of_lt inside
    simp [value, w, f1_append_n1, f2_append_n2]
  · obtain ⟨n1, n2⟩ := wgUpdate_addr_rejected (w := w) outside
    exact ⟨reject (n1 false), reject (n1 true), reject n2⟩

end Sys2Proof.Machine
end
